-- ==== Sys2Proof/Word.lean ====
section
/-! DEFINITION. The word types of the machine: a byte, a T32 halfword, and the 32-bit word that general registers, the pc,
the CPSR view and A32 instructions share (10_state.md R38, R47, R48; 30_encoding.md R101). -/

namespace Sys2Proof

/-- A byte of memory. -/
abbrev Byte := BitVec 8

/-- A T32 halfword. -/
abbrev Half := BitVec 16

/-- A 32-bit word. -/
abbrev Word := BitVec 32

end Sys2Proof
end

