-- ==== Sys2Proof/Config.lean ====
section
/-! DEFINITION. What an implementation fixes: the parameters cfg.* of 00_scope.md R6 as one record of plain data, so that a
statement about every state is a statement about every implementation; and the free values of the model, constants with no
body. The values of one reference implementation are in Machine/Reference.lean. -/

namespace Sys2Proof

/-- The AArch32 modes (10_state.md R32, R231). -/
inductive Mode where
  | user | fiq | irq | supervisor | monitor | abort | hyp | undefined | system
deriving DecidableEq, Repr

/-- Exception levels (10_state.md R45). -/
inductive EL where
  | el0 | el1 | el2 | el3
deriving DecidableEq, Repr

/-- An Exception level's number; a higher number is a higher level (00_scope.md R11). -/
def EL.number : EL → Nat
  | .el0 => 0
  | .el1 => 1
  | .el2 => 2
  | .el3 => 3

/-- The two Security states (10_state.md R45). -/
inductive Security where
  | secure | nonSecure
deriving DecidableEq, Repr

/-- One value for each mode. -/
structure PerMode (α : Type) where
  user : α
  fiq : α
  irq : α
  supervisor : α
  monitor : α
  abort : α
  hyp : α
  undefined : α
  system : α
deriving DecidableEq, Repr

/-- The value for one mode. -/
def PerMode.get {α : Type} (p : PerMode α) : Mode → α
  | .user => p.user
  | .fiq => p.fiq
  | .irq => p.irq
  | .supervisor => p.supervisor
  | .monitor => p.monitor
  | .abort => p.abort
  | .hyp => p.hyp
  | .undefined => p.undefined
  | .system => p.system

/-- The family with one mode's value replaced. -/
def PerMode.set {α : Type} (p : PerMode α) (m : Mode) (v : α) : PerMode α :=
  match m with
  | .user => { p with user := v }
  | .fiq => { p with fiq := v }
  | .irq => { p with irq := v }
  | .supervisor => { p with supervisor := v }
  | .monitor => { p with monitor := v }
  | .abort => { p with abort := v }
  | .hyp => { p with hyp := v }
  | .undefined => { p with undefined := v }
  | .system => { p with system := v }

/-- A function applied to each mode's value. -/
def PerMode.map {α β : Type} (f : α → β) (p : PerMode α) : PerMode β where
  user := f p.user
  fiq := f p.fiq
  irq := f p.irq
  supervisor := f p.supervisor
  monitor := f p.monitor
  abort := f p.abort
  hyp := f p.hyp
  undefined := f p.undefined
  system := f p.system

/-- The same value for every mode. -/
def PerMode.all {α : Type} (v : α) : PerMode α := ⟨v, v, v, v, v, v, v, v, v⟩

/-- The exceptions the spec names (60_exceptions.md R221). -/
inductive ExcKind where
  | illegalState | undefinedInstruction | serror | irq | fiq
deriving DecidableEq, Repr

/-- One value for each exception kind. -/
structure PerExc (α : Type) where
  illegalState : α
  undefinedInstruction : α
  serror : α
  irq : α
  fiq : α
deriving DecidableEq, Repr

/-- The value for one exception kind. -/
def PerExc.get {α : Type} (p : PerExc α) : ExcKind → α
  | .illegalState => p.illegalState
  | .undefinedInstruction => p.undefinedInstruction
  | .serror => p.serror
  | .irq => p.irq
  | .fiq => p.fiq

/-- The same value for every exception kind. -/
def PerExc.all {α : Type} (v : α) : PerExc α := ⟨v, v, v, v, v⟩

/-- The encodings of M[4:0] the lost Table G1-5 gives (cfg.ModeTable, 10_state.md R32, 92 D5). The source fixes Supervisor and
Hyp, so they are no fields here (`Machine.modeCode` gives them). -/
structure ModeTable where
  user : BitVec 5
  fiq : BitVec 5
  irq : BitVec 5
  monitor : BitVec 5
  abort : BitVec 5
  undefined : BitVec 5
  system : BitVec 5
deriving DecidableEq, Repr

/-- A non-empty subset of A, I, F: what an exception entry sets to 1 (60_exceptions.md R215; empty is ruled out by C10). -/
inductive EntryMask where
  | a | i | f | ai | af | fi | aif
deriving DecidableEq, Repr

/-- A function of one bit: what an exception entry makes of PAN or SSBS (cfg.EntryPAN, cfg.EntrySSBS, R218). -/
inductive BitRule where
  | keep | zero | one | flip
deriving DecidableEq, Repr

/-- The target mode of an exception: taken from Hyp mode, and otherwise (60_exceptions.md R216, R220). Log entry 18. -/
structure TargetRule where
  fromHyp : Mode
  otherwise : Mode
deriving DecidableEq, Repr

/-- Which events are Context Synchronization events (cfg.IsContextSync, 20_memory.md R89). -/
structure ContextSync where
  isb : Bool
  exceptionEntry : Bool
  exceptionReturn : Bool
  debugExit : Bool
deriving DecidableEq, Repr

/-- What an access does at an address that is no multiple of its size (cfg.AlignPolicy, 20_memory.md R90): the model stops,
the access is made at the address as it stands, or the low address bits are ignored. -/
inductive AlignPolicy where
  | stop | bytewise | roundDown
deriving DecidableEq, Repr

/-- The configuration: 00_scope.md R6's record cfg.* (bits as Bool, `true` for 1). -/
structure Config where
  haveUINJ : Bool
  havePAN : Bool
  haveDIT : Bool
  haveSSBS : Bool
  bothEndian : Bool
  highestELIsEL2 : Bool
  modeImplemented : PerMode Bool
  el3UsingAArch64 : Bool
  resetT : Bool
  resetEE : Bool
  resetSSBS : Bool
  modeTable : ModeTable
  /-- cfg.ELOfMode in Secure state, for this configuration's EL3UsingAArch64 (10_state.md R45). -/
  elSecure : PerMode EL
  /-- cfg.ELOfMode in Non-secure state. -/
  elNonSecure : PerMode EL
  onlyEndianness : Bool
  setendDisabled : Bool
  /-- cfg.EntryMask(exc, target). -/
  entryMask : PerExc (PerMode EntryMask)
  /-- cfg.EntryPAN(old, target). -/
  entryPAN : PerMode BitRule
  /-- cfg.EntrySSBS(old, target). -/
  entrySSBS : PerMode BitRule
  /-- The target mode of each exception; `target.illegalState`, with `trappedTarget`, is cfg.IllegalStateTarget. -/
  target : PerExc TargetRule
  /-- The target mode of the Illegal Execution state and Undefined Instruction exceptions while general exceptions are trapped
  to Hyp mode (60_exceptions.md R220, GK18). -/
  trappedTarget : Mode
  contextSync : ContextSync
  alignPolicy : AlignPolicy
deriving DecidableEq, Repr

/-- The free values (draw of 00_scope.md R8): the k-th value drawn in a run. It has no body, so nothing can be proved of it.
Log entry 33. -/
opaque Config.freeWord : Nat → BitVec 32

/-- Whether a condition field other than 1110 passes under flags N:Z:C:V. Condition evaluation is not in the source
(91 N21, 92 D39). No body. Log entry 13. -/
opaque Config.conditionHolds : BitVec 4 → BitVec 4 → Bool

/-- Whether an instruction inside an IT block passes, from IT[7:0] and the flags. Not in the source (91 N24). No body.
Log entry 14. -/
opaque Config.itConditionHolds : BitVec 8 → BitVec 4 → Bool

end Sys2Proof
end

