-- ==== Sys2Proof/Machine/Records.lean ====
section
/-! DEFINITION. The records the state is made of, all plain data: PSTATE, the outside inputs of a step, the asynchronous
exceptions, the fetch context, and the draws of a reset. Bits are Bool, `true` for 1. -/

namespace Sys2Proof.Machine

/-- PSTATE, the fields meaningful in AArch32 state (10_state.md R20). An SPSR is a record of the same shape (R42, 92 D33). -/
structure PState where
  n : Bool
  z : Bool
  c : Bool
  v : Bool
  q : Bool
  ge : BitVec 4
  j : Bool
  t : Bool
  it : BitVec 8
  e : Bool
  il : Bool
  a : Bool
  i : Bool
  f : Bool
  m : BitVec 5
  uinj : Bool
  pan : Bool
  dit : Bool
  ssbs : Bool
deriving DecidableEq, Repr

/-- A PSTATE record of zeros: what State.reset's SPSRs hold (log entry 4). -/
def PState.zero : PState :=
  ⟨false, false, false, false, false, 0, false, false, 0, false, false, false, false, false, 0, false, false, false, false⟩

/-- What an SPSR holds of a PSTATE: every field, J as 0 (60_exceptions.md R210; 90_conflicts.md C7, 92 D9, D33). -/
def savedPState (p : PState) : PState := { p with j := false }

/-- State defined outside the section that PSTATE rules read: the group in.* of 00_scope.md R6 (10_state.md R44, R45). -/
structure Inputs where
  sctlrTE : Bool
  sctlrEE : Bool
  hsctlrTE : Bool
  hsctlrEE : Bool
  hcrTGE : Bool
  scrNS : Bool
  security : Security
deriving DecidableEq, Repr

/-- A set of asynchronous exceptions (60_exceptions.md R222). -/
structure AsyncSet where
  serror : Bool
  irq : Bool
  fiq : Bool
deriving DecidableEq, Repr

/-- No asynchronous exception. -/
def AsyncSet.none : AsyncSet := ⟨false, false, false⟩

/-- The asynchronous exceptions of either set. -/
def AsyncSet.union (s t : AsyncSet) : AsyncSet := ⟨s.serror || t.serror, s.irq || t.irq, s.fiq || t.fiq⟩

/-- What the environment presents before a coming step: that step's inputs, and the asynchronous exceptions that arrive. -/
structure EnvStep where
  inp : Inputs
  arrivals : AsyncSet
deriving DecidableEq, Repr

/-- What an instruction fetch depends on: the current Exception level and Security state (20_memory.md R86, R87). -/
structure FetchContext where
  el : EL
  security : Security
deriving DecidableEq, Repr

/-- Memory: the bytes that differ from what an unlisted address reads as, addresses strictly rising (`Memory.wf`). -/
abbrev Memory := List Host.Cell

/-- The draws of a reset: a value for everything R51 and R251 leave open (70_reset_and_hazards.md). -/
structure ResetDraws where
  n : Bool
  z : Bool
  c : Bool
  v : Bool
  q : Bool
  ge : BitVec 4
  pan : Bool
  x : Vector Word 15
  spsr : PerMode PState
  pc : Word
  mem : Memory
deriving DecidableEq, Repr

end Sys2Proof.Machine
end

