-- ==== Sys2Proof/Machine/Modes.lean ====
section
/-! DEFINITION. Modes and their encodings, Exception levels, and the legality of a change of PSTATE.M
(10_state.md R32, R45; 44_illegal_changes_and_pstate_functions.md R191 to R193). -/

namespace Sys2Proof.Machine

/-- Every mode. -/
def allModes : List Mode :=
  [.user, .fiq, .irq, .supervisor, .monitor, .abort, .hyp, .undefined, .system]

/-- A mode's value of M[4:0]: cfg.ModeTable, with the two rows the source fixes (10_state.md R32). -/
def modeCode (c : Config) : Mode → BitVec 5
  | .user => c.modeTable.user
  | .fiq => c.modeTable.fiq
  | .irq => c.modeTable.irq
  | .supervisor => 0b10011
  | .monitor => c.modeTable.monitor
  | .abort => c.modeTable.abort
  | .hyp => 0b11010
  | .undefined => c.modeTable.undefined
  | .system => c.modeTable.system

/-- The mode a value of M[4:0] names, `none` for a reserved value (10_state.md R30, R32). -/
def modeOf (c : Config) (m : BitVec 5) : Option Mode := allModes.find? fun md => modeCode c md == m

/-- M names a mode of the table that is implemented (44 R201). -/
def permittedMode (c : Config) (m : BitVec 5) : Bool :=
  match modeOf c m with
  | some md => c.modeImplemented.get md
  | none => false

/-- cfg.ELOfMode (10_state.md R45). -/
def elOfMode (c : Config) (md : Mode) : Security → EL
  | .secure => c.elSecure.get md
  | .nonSecure => c.elNonSecure.get md

/-- The Exception level of a value of M; a reserved value, which no reachable state holds (R201), counts as EL0 (log 38). -/
def elOfCode (c : Config) (m : BitVec 5) (sec : Security) : EL :=
  match modeOf c m with
  | some md => elOfMode c md sec
  | none => .el0

/-- Executing at PL0: PSTATE.M is User (40_cpsr_access.md R123). -/
def atPL0 (c : Config) (m : BitVec 5) : Bool := m == modeCode c .user

/-- The Security state after a change of M from `cur` to `new` (44 R193, TargetSecurity). -/
def targetSecurity (c : Config) (inp : Inputs) (cur new : BitVec 5) : Security :=
  if cur = modeCode c .monitor ∧ new ≠ modeCode c .monitor then
    (if inp.scrNS then .nonSecure else .secure)
  else inp.security

/-- The PL1 modes other than Monitor (44 R193, IsPL1NonMonitor). -/
def isPL1NonMonitor : Mode → Bool
  | .fiq | .irq | .supervisor | .abort | .undefined | .system => true
  | .user | .monitor | .hyp => false

/-- The clauses of 44 R191, each a named check. -/
inductive IllegalClause where
  /-- (1) an encoding Table G1-5 does not show -/
  | notInTable
  /-- (2) a mode that is not implemented -/
  | notImplemented
  /-- (3a) entry to a higher Exception level -/
  | higherLevel
  /-- (3b) to Monitor mode in Non-secure state -/
  | monitorFromNonSecure
  /-- (3c) to Monitor mode in Secure EL1 when EL3 is using AArch64 -/
  | monitorFromSecureEL1
  /-- (3d) to Hyp mode from any other mode -/
  | toHyp
  /-- (3e) from Hyp mode to any other mode -/
  | fromHyp
  /-- (3f) from Monitor mode to a Non-secure PL1 mode when HCR.TGE is 1 -/
  | tgeFromMonitor
deriving DecidableEq, Repr

/-- Every clause. -/
def allClauses : List IllegalClause :=
  [.notInTable, .notImplemented, .higherLevel, .monitorFromNonSecure, .monitorFromSecureEL1, .toHyp, .fromHyp, .tgeFromMonitor]

/-- Whether a clause makes the change from `cur` to `new` illegal (44 R193). -/
def clauseApplies (c : Config) (inp : Inputs) (cur new : BitVec 5) : IllegalClause → Bool
  | .notInTable => (modeOf c new).isNone
  | .notImplemented => match modeOf c new with
    | some md => !c.modeImplemented.get md
    | none => false
  | .higherLevel => match modeOf c new with
    | some md =>
      decide ((elOfCode c cur inp.security).number < (elOfMode c md (targetSecurity c inp cur new)).number)
    | none => false
  | .monitorFromNonSecure => decide (inp.security = .nonSecure) && new == modeCode c .monitor
  | .monitorFromSecureEL1 =>
    decide (inp.security = .secure) && decide (elOfCode c cur inp.security = .el1) && c.el3UsingAArch64
      && new == modeCode c .monitor
  | .toHyp => new == modeCode c .hyp
  | .fromHyp => cur == modeCode c .hyp
  | .tgeFromMonitor =>
    inp.hcrTGE && cur == modeCode c .monitor && inp.scrNS && match modeOf c new with
      | some md => isPL1NonMonitor md
      | none => false

/-- The clauses that make a change illegal; writing the current value is no change (44 R193, R198). -/
def illegalClauses (c : Config) (inp : Inputs) (cur new : BitVec 5) : List IllegalClause :=
  if new = cur then [] else allClauses.filter (clauseApplies c inp cur new)

/-- IllegalModeChange (44 R193). -/
def illegalModeChange (c : Config) (inp : Inputs) (cur new : BitVec 5) : Bool :=
  !(illegalClauses c inp cur new).isEmpty

/-- The two exceptions whose target GK18 makes depend on the trapping of general exceptions. HCR.TGE has no effect on any other
exception (60_exceptions.md R220, R230; 92 D22). -/
def trappedByTge : ExcKind → Bool
  | .illegalState | .undefinedInstruction => true
  | .serror | .irq | .fiq => false

/-- The target mode of an exception taken from a value of M (60_exceptions.md R216, R220, 93 GK18). Log entry 18. -/
def exceptionTarget (c : Config) (inp : Inputs) (exc : ExcKind) (m : BitVec 5) : Mode :=
  if m = modeCode c .hyp then (c.target.get exc).fromHyp
  else if trappedByTge exc ∧ inp.hcrTGE ∧ inp.security = .nonSecure then c.trappedTarget
  else (c.target.get exc).otherwise

end Sys2Proof.Machine
end

