-- ==== Sys2Proof/Machine/Bits.lean ====
section
/-! DEFINITION. Bit fields and byte order: reading a field of a word, placing a field in a word (00_scope.md R7, bit 0 the
least significant), and words and halfwords as bytes, lowest address first. -/

namespace Sys2Proof.Machine

/-- `x` put into an `n`-bit word with its bit 0 at position `k`; the other bits are 0. -/
def place (n : Nat) {w : Nat} (x : BitVec w) (k : Nat) : BitVec n := x.setWidth n <<< k

/-- One bit put into an `n`-bit word at position `k`. -/
def placeBit (n : Nat) (b : Bool) (k : Nat) : BitVec n := place n (BitVec.ofBool b) k

/-- The `w`-bit field of `v` whose least significant bit is bit `k` (R7). -/
def field {n : Nat} (v : BitVec n) (k w : Nat) : BitVec w := v.extractLsb' k w

/-- Bit `k` of `v`. -/
def bit {n : Nat} (v : BitVec n) (k : Nat) : Bool := v.getLsbD k

/-- A little-endian word from its four bytes, lowest address first (20_memory.md R84). -/
def wordOfBytes (b0 b1 b2 b3 : Byte) : Word := place 32 b0 0 ||| place 32 b1 8 ||| place 32 b2 16 ||| place 32 b3 24

/-- A little-endian halfword from its two bytes, lowest address first (20_memory.md R84). -/
def halfOfBytes (b0 b1 : Byte) : Half := place 16 b0 0 ||| place 16 b1 8

/-- A word's bytes in little-endian order, lowest address first. -/
def wordBytes (w : Word) : List Byte := [field w 0 8, field w 8 8, field w 16 8, field w 24 8]

/-- A halfword's bytes in little-endian order, lowest address first. -/
def halfBytes (h : Half) : List Byte := [field h 0 8, field h 8 8]

/-- The number whose base-256 digits are `bs`, the first byte least significant. -/
def natOfBytes : List Byte → Nat
  | [] => 0
  | b :: bs => b.toNat + 256 * natOfBytes bs

/-- The `k` low bytes of `v`, least significant first. -/
def bytesOfNat : Nat → Nat → List Byte
  | 0, _ => []
  | k + 1, v => BitVec.ofNat 8 v :: bytesOfNat k (v / 256)

end Sys2Proof.Machine
end

