-- ==== Sys2Proof/Syntax.lean ====
section
/-! DEFINITION. The instructions: one constructor per row of spec/opcode_table.json (22 rows, 11 mnemonics). The suffix is the
row's format: A1 is the A32 encoding, T1 and T2 the T32 encodings (30_encoding.md R109, R110). -/

namespace Sys2Proof

/-- A general-purpose register x[0] to x[14]; register 15 is refused as an operand (10_state.md R47, 92 D2). -/
abbrev Reg := Fin 15

/-- `<iflags>`: which of PSTATE.A, PSTATE.I and PSTATE.F a CPSIE or CPSID names (30_encoding.md R102). -/
structure IFlags where
  a : Bool
  i : Bool
  f : Bool
deriving DecidableEq, Repr

/-- The instructions of spec/opcode_table.json. -/
inductive Instr where
  /-- CPSIE `<iflags>` {, #`<mode>`}, A32 A1. -/
  | cpsieA1 (flags : IFlags) (mode : Option (BitVec 5))
  /-- CPSID `<iflags>` {, #`<mode>`}, A32 A1. -/
  | cpsidA1 (flags : IFlags) (mode : Option (BitVec 5))
  /-- CPS #`<mode>`, A32 A1. -/
  | cpsA1 (mode : BitVec 5)
  /-- SETEND BE, A32 A1. -/
  | setendBeA1
  /-- SETEND LE, A32 A1. -/
  | setendLeA1
  /-- SETPAN #0, A32 A1. -/
  | setpan0A1
  /-- SETPAN #1, A32 A1. -/
  | setpan1A1
  /-- MRS Rd, CPSR, A32 A1. -/
  | mrsA1 (cond : BitVec 4) (rd : Reg)
  /-- MSR CPSR_`<fields>`, Rn, A32 A1. -/
  | msrRegA1 (cond mask : BitVec 4) (rn : Reg)
  /-- MSR CPSR_`<fields>`, #`<const>`, A32 A1. -/
  | msrImmA1 (cond mask : BitVec 4) (imm12 : BitVec 12)
  /-- CPSIE `<iflags>`, T32 T1. -/
  | cpsieT1 (flags : IFlags)
  /-- CPSID `<iflags>`, T32 T1. -/
  | cpsidT1 (flags : IFlags)
  /-- CPSIE `<iflags>` {, #`<mode>`}, T32 T2. -/
  | cpsieT2 (flags : IFlags) (mode : Option (BitVec 5))
  /-- CPSID `<iflags>` {, #`<mode>`}, T32 T2. -/
  | cpsidT2 (flags : IFlags) (mode : Option (BitVec 5))
  /-- CPS #`<mode>`, T32 T2. -/
  | cpsT2 (mode : BitVec 5)
  /-- SETEND BE, T32 T1. -/
  | setendBeT1
  /-- SETEND LE, T32 T1. -/
  | setendLeT1
  /-- SETPAN #0, T32 T1. -/
  | setpan0T1
  /-- SETPAN #1, T32 T1. -/
  | setpan1T1
  /-- MRS Rd, CPSR, T32 T1. -/
  | mrsT1 (rd : Reg)
  /-- MSR CPSR_`<fields>`, Rn, T32 T1. -/
  | msrRegT1 (mask : BitVec 4) (rn : Reg)
  /-- LDR Rt, [Rn, imm12 added or subtracted], A32 A1: word, offset form; `up` is the U bit. -/
  | ldrA1 (cond : BitVec 4) (up : Bool) (rn rt : Reg) (imm12 : BitVec 12)
deriving DecidableEq, Repr

end Sys2Proof
end

