-- ==== Sys2Proof/WellFormed.lean ====
section
/-! DEFINITION. Which instructions exist: the operand values the spec permits (30_encoding.md R102, R109, R111, R112). -/

namespace Sys2Proof

/-- `<iflags>` is a non-empty subset (41_cps.md R150, R157; 92 D29). -/
def IFlags.nonEmpty (fl : IFlags) : Bool := fl.a || fl.i || fl.f

/-- The condition field of an A32 instruction outside the unconditional space (30_encoding.md R101). -/
def condOk (cond : BitVec 4) : Bool := cond != 0b1111

/-- An MSR field mask selects at least one lane (30_encoding.md R109, 40_cpsr_access.md R123 (a)). -/
def maskOk (mask : BitVec 4) : Bool := mask != 0

/-- A register operand of a T32 MRS or MSR: not 13 (30_encoding.md R111; not 15 is in the type). -/
def t32RegOk (r : Reg) : Bool := r != 13

/-- The operand checks of an instruction. -/
def Instr.wellFormed : Instr → Bool
  | .cpsieA1 fl _ => fl.nonEmpty
  | .cpsidA1 fl _ => fl.nonEmpty
  | .cpsA1 _ => true
  | .setendBeA1 => true
  | .setendLeA1 => true
  | .setpan0A1 => true
  | .setpan1A1 => true
  | .mrsA1 cond _ => condOk cond
  | .msrRegA1 cond mask _ => condOk cond && maskOk mask
  | .msrImmA1 cond mask _ => condOk cond && maskOk mask
  | .cpsieT1 fl => fl.nonEmpty
  | .cpsidT1 fl => fl.nonEmpty
  | .cpsieT2 fl _ => fl.nonEmpty
  | .cpsidT2 fl _ => fl.nonEmpty
  | .cpsT2 _ => true
  | .setendBeT1 => true
  | .setendLeT1 => true
  | .setpan0T1 => true
  | .setpan1T1 => true
  | .mrsT1 rd => t32RegOk rd
  | .msrRegT1 mask rn => maskOk mask && t32RegOk rn
  | .ldrA1 cond _ _ _ _ => condOk cond

end Sys2Proof
end

