-- ==== Sys2Proof/Decode.lean ====
section
/-! DEFINITION. Decoding, total on any bytes and rejecting by name, and the encoder, both from 30_encoding.md R109 and R110
(general knowledge by the spec's own word, R108; log entry 10). A word is first matched on its opcode bits; a word whose
"should be" bits differ from the pattern is refused (R108), as are the operand combinations of R112. -/

namespace Sys2Proof

/-- Why bits are no instruction of the spec. Each is safe: the model stops where the spec gives nothing. -/
inductive DecodeError where
  /-- No row of opcode_table.json (93 U26, 00_scope.md R5). -/
  | notInSpec
  /-- A "should be" bit has the other value (30_encoding.md R108). -/
  | shouldBeBits
  /-- CPS with imod = 01 (R112, D29). -/
  | cpsReservedImod
  /-- CPSIE or CPSID that names no mask (R112, D29). -/
  | cpsNoMask
  /-- CPS with imod = 00 that names a mask (R112, D29). -/
  | cpsMaskWithoutImod
  /-- A mode field that is not 00000 where M = 0 (R109, R112, D29). -/
  | cpsModeWithoutM
  /-- CPS with imod = 00 and M = 0 in A32 (R112, D29). -/
  | cpsNothing
  /-- The hint space: MSR (immediate) with mask 0000 (R109), CPS T2 with imod = 00 and M = 0 (R110). -/
  | hintSpace
  /-- R = 1: the form on the SPSR, outside the spec (R109, opcode_table.json). -/
  | savedStatusForm
  /-- Register 15 as an operand (10_state.md R47, 92 D2). -/
  | registerFifteen
  /-- Register 13 as an operand of a T32 MRS or MSR (R111). -/
  | registerThirteen
  /-- MSR (register) with mask 0000 (opcode_table.json, 40_cpsr_access.md R123 (a)). -/
  | emptyMask
  /-- Fewer bytes than the instruction has. -/
  | truncated
deriving DecidableEq, Repr

open Sys2Proof.Machine

/-- A 4-bit register field as an operand. -/
def decodeReg (n : BitVec 4) : Except DecodeError Reg :=
  if h : n.toNat < 15 then .ok ⟨n.toNat, h⟩ else .error .registerFifteen

/-- A T32 MRS or MSR register field: 13 is refused too (R111). -/
def decodeT32Reg (n : BitVec 4) : Except DecodeError Reg :=
  if n = 13 then .error .registerThirteen else decodeReg n

/-- The three assembler forms of CPS (41_cps.md R150 to R152). -/
inductive CpsForm where
  | enable (flags : IFlags) (mode : Option (BitVec 5))
  | disable (flags : IFlags) (mode : Option (BitVec 5))
  | modeOnly (mode : BitVec 5)
deriving DecidableEq, Repr

/-- The operands of a CPSIE or CPSID, or why there is no such form (R112). -/
def cpsMaskOperands (m : Bool) (fl : IFlags) (mode : BitVec 5) : Except DecodeError (IFlags × Option (BitVec 5)) :=
  if fl.nonEmpty = false then .error .cpsNoMask
  else if m then .ok (fl, some mode)
  else if mode = 0 then .ok (fl, none)
  else .error .cpsModeWithoutM

/-- The form that imod, M, A:I:F and mode express; `nothing` is the answer for imod = 00 with M = 0 (R109, R110, R112). -/
def cpsForm (imod : BitVec 2) (m : Bool) (fl : IFlags) (mode : BitVec 5) (nothing : DecodeError) : Except DecodeError CpsForm :=
  if imod = 0b10 then (cpsMaskOperands m fl mode).map fun o => .enable o.1 o.2
  else if imod = 0b11 then (cpsMaskOperands m fl mode).map fun o => .disable o.1 o.2
  else if imod = 0b01 then .error .cpsReservedImod
  else if m = false then .error nothing
  else if fl.nonEmpty then .error .cpsMaskWithoutImod
  else .ok (.modeOnly mode)

/-- The A32 instruction of a CPS form. -/
def CpsForm.a1 : CpsForm → Instr
  | .enable fl mode => .cpsieA1 fl mode
  | .disable fl mode => .cpsidA1 fl mode
  | .modeOnly mode => .cpsA1 mode

/-- The T32 T2 instruction of a CPS form. -/
def CpsForm.t2 : CpsForm → Instr
  | .enable fl mode => .cpsieT2 fl mode
  | .disable fl mode => .cpsidT2 fl mode
  | .modeOnly mode => .cpsT2 mode

/-- The A32 unconditional space: CPS, SETEND, SETPAN (R101, R109). -/
def decodeA32Uncond (w : Word) : Except DecodeError Instr :=
  if w &&& 0x0FF10020 = 0x01000000 then
    if w &&& 0x0000FE00 = 0 then
      (cpsForm (field w 18 2) (bit w 17) ⟨bit w 8, bit w 7, bit w 6⟩ (field w 0 5) .cpsNothing).map CpsForm.a1
    else .error .shouldBeBits
  else if w &&& 0x0FF100F0 = 0x01010000 then
    if w &&& 0xFFFFFDFF = 0xF1010000 then .ok (if bit w 9 then .setendBeA1 else .setendLeA1) else .error .shouldBeBits
  else if w &&& 0x0FF000F0 = 0x01100000 then
    if w &&& 0xFFFFFDFF = 0xF1100000 then .ok (if bit w 9 then .setpan1A1 else .setpan0A1) else .error .shouldBeBits
  else .error .notInSpec

/-- The A32 conditional space: MRS, MSR (register), MSR (immediate), LDR (R109, 93 GK34). -/
def decodeA32Cond (w : Word) : Except DecodeError Instr :=
  if w &&& 0x0FB002F0 = 0x01000000 then
    if bit w 22 then .error .savedStatusForm
    else if w &&& 0x0FFF0FFF = 0x010F0000 then (decodeReg (field w 12 4)).map fun rd => .mrsA1 (field w 28 4) rd
    else .error .shouldBeBits
  else if w &&& 0x0FB002F0 = 0x01200000 then
    if bit w 22 then .error .savedStatusForm
    else if w &&& 0x0FF0FFF0 = 0x0120F000 then
      if field w 16 4 = (0 : BitVec 4) then .error .emptyMask
      else (decodeReg (field w 0 4)).map fun rn => .msrRegA1 (field w 28 4) (field w 16 4) rn
    else .error .shouldBeBits
  else if w &&& 0x0FB00000 = 0x03200000 then
    if bit w 22 then .error .savedStatusForm
    else if field w 16 4 = (0 : BitVec 4) then .error .hintSpace
    else if w &&& 0x0FF0F000 = 0x0320F000 then .ok (.msrImmA1 (field w 28 4) (field w 16 4) (field w 0 12))
    else .error .shouldBeBits
  else if w &&& 0x0F700000 = 0x05100000 then
    match decodeReg (field w 16 4), decodeReg (field w 12 4) with
    | .ok rn, .ok rt => .ok (.ldrA1 (field w 28 4) (bit w 23) rn rt (field w 0 12))
    | _, _ => .error .registerFifteen
  else .error .notInSpec

/-- An A32 instruction word. -/
def decodeA32 (w : Word) : Except DecodeError Instr :=
  if field w 28 4 = (0b1111 : BitVec 4) then decodeA32Uncond w else decodeA32Cond w

/-- A 16-bit T32 instruction: CPSIE, CPSID, SETEND, SETPAN (R110). -/
def decodeT16 (h : Half) : Except DecodeError Instr :=
  if h &&& 0xFFE0 = 0xB660 then
    if bit h 3 then .error .shouldBeBits
    else
      (cpsMaskOperands false ⟨bit h 2, bit h 1, bit h 0⟩ 0).map fun o =>
        if bit h 4 then .cpsidT1 o.1 else .cpsieT1 o.1
  else if h &&& 0xFFE0 = 0xB640 then
    if h &&& 0xFFF7 = 0xB650 then .ok (if bit h 3 then .setendBeT1 else .setendLeT1) else .error .shouldBeBits
  else if h &&& 0xFFE0 = 0xB600 then
    if h &&& 0xFFF7 = 0xB610 then .ok (if bit h 3 then .setpan1T1 else .setpan0T1) else .error .shouldBeBits
  else .error .notInSpec

/-- A 32-bit T32 instruction from its first and second halfword: CPS T2, MRS, MSR (register) (R110). -/
def decodeT32 (h1 h2 : Half) : Except DecodeError Instr :=
  if h1 &&& 0xFFF0 = 0xF3A0 ∧ h2 &&& 0xD000 = 0x8000 then
    if h1 = 0xF3AF ∧ h2 &&& 0x2800 = 0 then
      (cpsForm (field h2 9 2) (bit h2 8) ⟨bit h2 7, bit h2 6, bit h2 5⟩ (field h2 0 5) .hintSpace).map CpsForm.t2
    else .error .shouldBeBits
  else if h1 &&& 0xFFE0 = 0xF3E0 ∧ h2 &&& 0xD020 = 0x8000 then
    if bit h1 4 then .error .savedStatusForm
    else if h1 = 0xF3EF ∧ h2 &&& 0xF0FF = 0x8000 then (decodeT32Reg (field h2 8 4)).map fun rd => .mrsT1 rd
    else .error .shouldBeBits
  else if h1 &&& 0xFFE0 = 0xF380 ∧ h2 &&& 0xD020 = 0x8000 then
    if bit h1 4 then .error .savedStatusForm
    else if h2 &&& 0xF0FF = 0x8000 then
      if field h2 8 4 = (0 : BitVec 4) then .error .emptyMask
      else (decodeT32Reg (field h1 0 4)).map fun rn => .msrRegT1 (field h2 8 4) rn
    else .error .shouldBeBits
  else .error .notInSpec

/-- Whether a first halfword starts a 32-bit T32 instruction: bits [15:11] are 11101, 11110 or 11111 (R101). -/
def isWide (h : Half) : Bool :=
  let top : BitVec 5 := field h 11 5
  top == 0b11101 || top == 0b11110 || top == 0b11111

/-- The instruction at the head of a byte list, lowest address first, in the instruction set that PSTATE.T names (`t`; 1 is
T32, 10_state.md R25), with the bytes after it. Fetch is little-endian, a T32 first halfword lowest (20_memory.md R84). -/
def decodeBytes (t : Bool) (bs : List Byte) : Except DecodeError (Instr × List Byte) :=
  match t, bs with
  | false, b0 :: b1 :: b2 :: b3 :: rest => (decodeA32 (wordOfBytes b0 b1 b2 b3)).map fun i => (i, rest)
  | true, b0 :: b1 :: rest =>
    if isWide (halfOfBytes b0 b1) then
      match rest with
      | b2 :: b3 :: rest' => (decodeT32 (halfOfBytes b0 b1) (halfOfBytes b2 b3)).map fun i => (i, rest')
      | _ => .error .truncated
    else (decodeT16 (halfOfBytes b0 b1)).map fun i => (i, rest)
  | _, _ => .error .truncated

/-- An encoding: an A32 word, a T32 halfword, or two T32 halfwords, the first first. -/
inductive Encoding where
  | a32 (w : Word)
  | t16 (h : Half)
  | t32 (h1 h2 : Half)
deriving DecidableEq, Repr

/-- The bytes of an encoding as memory holds them, lowest address first (20_memory.md R84). -/
def Encoding.bytes : Encoding → List Byte
  | .a32 w => wordBytes w
  | .t16 h => halfBytes h
  | .t32 h1 h2 => halfBytes h1 ++ halfBytes h2

/-- Whether an encoding is T32. -/
def Encoding.isT32 : Encoding → Bool
  | .a32 _ => false
  | .t16 _ => true
  | .t32 _ _ => true

/-- A register number as a 4-bit field. -/
def regField (r : Reg) : BitVec 4 := BitVec.ofNat 4 r.val

/-- The fields M and mode of a CPSIE or CPSID, and A, I, F at the positions of the A32 word (R109). -/
def cpsFieldsA1 (fl : IFlags) (mode : Option (BitVec 5)) : Word :=
  placeBit 32 mode.isSome 17 ||| placeBit 32 fl.a 8 ||| placeBit 32 fl.i 7 ||| placeBit 32 fl.f 6 |||
    place 32 (mode.getD 0) 0

/-- The same fields in the second halfword of T32 T2 (R110). -/
def cpsFieldsT2 (fl : IFlags) (mode : Option (BitVec 5)) : Half :=
  placeBit 16 mode.isSome 8 ||| placeBit 16 fl.a 7 ||| placeBit 16 fl.i 6 ||| placeBit 16 fl.f 5 |||
    place 16 (mode.getD 0) 0

/-- The A, I, F fields of T32 T1 (R110). -/
def cpsFieldsT1 (fl : IFlags) : Half := placeBit 16 fl.a 2 ||| placeBit 16 fl.i 1 ||| placeBit 16 fl.f 0

/-- The words of an instruction: the row's match value with the operands in their fields (R109, R110). -/
def encode : Instr → Encoding
  | .cpsieA1 fl mode => .a32 (0xF1080000 ||| cpsFieldsA1 fl mode)
  | .cpsidA1 fl mode => .a32 (0xF10C0000 ||| cpsFieldsA1 fl mode)
  | .cpsA1 mode => .a32 (0xF1020000 ||| place 32 mode 0)
  | .setendBeA1 => .a32 0xF1010200
  | .setendLeA1 => .a32 0xF1010000
  | .setpan0A1 => .a32 0xF1100000
  | .setpan1A1 => .a32 0xF1100200
  | .mrsA1 cond rd => .a32 (0x010F0000 ||| place 32 cond 28 ||| place 32 (regField rd) 12)
  | .msrRegA1 cond mask rn => .a32 (0x0120F000 ||| place 32 cond 28 ||| place 32 mask 16 ||| place 32 (regField rn) 0)
  | .msrImmA1 cond mask imm12 => .a32 (0x0320F000 ||| place 32 cond 28 ||| place 32 mask 16 ||| place 32 imm12 0)
  | .cpsieT1 fl => .t16 (0xB660 ||| cpsFieldsT1 fl)
  | .cpsidT1 fl => .t16 (0xB670 ||| cpsFieldsT1 fl)
  | .cpsieT2 fl mode => .t32 0xF3AF (0x8400 ||| cpsFieldsT2 fl mode)
  | .cpsidT2 fl mode => .t32 0xF3AF (0x8600 ||| cpsFieldsT2 fl mode)
  | .cpsT2 mode => .t32 0xF3AF (0x8100 ||| place 16 mode 0)
  | .setendBeT1 => .t16 0xB658
  | .setendLeT1 => .t16 0xB650
  | .setpan0T1 => .t16 0xB610
  | .setpan1T1 => .t16 0xB618
  | .mrsT1 rd => .t32 0xF3EF (0x8000 ||| place 16 (regField rd) 8)
  | .msrRegT1 mask rn => .t32 (0xF380 ||| place 16 (regField rn) 0) (0x8000 ||| place 16 mask 8)
  | .ldrA1 cond up rn rt imm12 =>
    .a32 (0x05100000 ||| place 32 cond 28 ||| placeBit 32 up 23 ||| place 32 (regField rn) 16 |||
      place 32 (regField rt) 12 ||| place 32 imm12 0)

/-- Whether the row a table word belongs to is a T32 row: 16 bits, or 32 bits whose first halfword is 0xF3xx. Every 32-bit
T32 row of opcode_table.json begins 0xF3 and no A32 row does (log entry 35). -/
def tableIsT32 (nbits w : Nat) : Bool := nbits == 16 || w / 2 ^ 24 % 256 == 0xF3

/-- The bytes of a table word as memory holds them. opcode_table.json numbers a 32-bit T32 row with the first halfword in
bits 31:16 (R110 and the rows' notes; log entry 35). A 16-bit row is followed by zeros. -/
def tableBytes (nbits w : Nat) : List Byte :=
  if nbits == 16 then halfBytes (BitVec.ofNat 16 w) ++ [0, 0]
  else if tableIsT32 nbits w then halfBytes (BitVec.ofNat 16 (w / 2 ^ 16)) ++ halfBytes (BitVec.ofNat 16 w)
  else wordBytes (BitVec.ofNat 32 w)

/-- The instruction the decoder reads from a word of opcode_table.json. -/
def decodeTableWord (nbits w : Nat) : Option Instr :=
  match decodeBytes (tableIsT32 nbits w) (tableBytes nbits w) with
  | .ok (i, _) => some i
  | .error _ => none

end Sys2Proof
end

