-- ==== Sys2Proof/Machine/Reference.lean ====
section
/-! DEFINITION. One reference implementation, for State.reset: the default configuration of 95_test_vectors.md and the general
knowledge defaults of 93_implementation_defined.md, and the inputs and draws State.reset takes. No meaning reads these: every
meaning reads the configuration and the inputs of the state. Log entries 2 to 6, 11, 12, 18, 36. -/

namespace Sys2Proof.Machine

/-- The default mode table (10_state.md R32, 93 GK2). -/
def referenceModeTable : ModeTable where
  user := 0b10000
  fiq := 0b10001
  irq := 0b10010
  monitor := 0b10110
  abort := 0b10111
  undefined := 0b11011
  system := 0b11111

/-- The default of ELOfMode (10_state.md R45, 93 GK5). -/
def defaultEL (sec : Security) (el3aa64 : Bool) : Mode → EL
  | .user => .el0
  | .hyp => .el2
  | .monitor => .el3
  | .fiq | .irq | .supervisor | .abort | .undefined | .system =>
    if sec = .secure ∧ el3aa64 = false then .el3 else .el1

/-- A function on modes as a family. -/
def perModeOf {α : Type} (g : Mode → α) : PerMode α where
  user := g .user
  fiq := g .fiq
  irq := g .irq
  supervisor := g .supervisor
  monitor := g .monitor
  abort := g .abort
  hyp := g .hyp
  undefined := g .undefined
  system := g .system

/-- The default of EntryMask by target mode (60_exceptions.md R215, 93 GK16); User and System are no targets and get A, I, F.
For Hyp GK16 leaves each of A, I, F to EL3's routing controls where EL3 is implemented; those are no inputs of the spec, and the
reference, which has Monitor mode, sets all three: the model's choice (log entry 36). -/
def defaultEntryMask : Mode → EntryMask
  | .fiq | .monitor | .hyp | .user | .system => .aif
  | .irq | .abort => .ai
  | .undefined | .supervisor => .i

/-- The default target of the Illegal Execution state exception and of Undefined Instruction (60_exceptions.md R220, GK18). -/
def undefinedTargetRule : TargetRule := ⟨.hyp, .undefined⟩

/-- The reference configuration. -/
def referenceConfig : Config where
  haveUINJ := true
  havePAN := true
  haveDIT := true
  haveSSBS := true
  bothEndian := true
  highestELIsEL2 := false
  modeImplemented := PerMode.all true
  el3UsingAArch64 := false
  resetT := false
  resetEE := false
  resetSSBS := false
  modeTable := referenceModeTable
  elSecure := perModeOf (defaultEL .secure false)
  elNonSecure := perModeOf (defaultEL .nonSecure false)
  onlyEndianness := false
  setendDisabled := false
  entryMask := PerExc.all (perModeOf defaultEntryMask)
  entryPAN := PerMode.all .keep
  entrySSBS := PerMode.all .keep
  target :=
    { illegalState := undefinedTargetRule
      undefinedInstruction := undefinedTargetRule
      serror := ⟨.hyp, .abort⟩
      irq := ⟨.hyp, .irq⟩
      fiq := ⟨.hyp, .fiq⟩ }
  trappedTarget := .hyp
  contextSync := ⟨true, true, true, true⟩
  alignPolicy := .stop

/-- The inputs State.reset holds (log entry 6). -/
def referenceInputs : Inputs := ⟨false, false, false, false, false, false, .secure⟩

/-- The draws State.reset takes: zeros, and memory with nothing listed (log entries 3, 4, 5). -/
def zeroDraws : ResetDraws :=
  ⟨false, false, false, false, false, 0, false, Vector.replicate 15 0, PerMode.all PState.zero, 0, []⟩

end Sys2Proof.Machine
end

