-- ==== Sys2Proof/Machine/Reset.lean ====
section
/-! DEFINITION. The values a Warm reset to AArch32 state gives (10_state.md R50, 70_reset_and_hazards.md R251), for every
configuration and every draw. -/

namespace Sys2Proof.Machine

/-- PSTATE after WarmResetToAArch32 (R251). A field of a feature that is absent does not exist and is held at 0. -/
def resetPState (c : Config) (d : ResetDraws) : PState where
  n := d.n
  z := d.z
  c := d.c
  v := d.v
  q := d.q
  ge := d.ge
  j := false
  t := c.resetT
  it := 0
  e := if c.bothEndian then c.resetEE else c.onlyEndianness
  il := false
  a := true
  i := true
  f := true
  m := if c.highestELIsEL2 then 0b11010 else 0b10011
  uinj := false
  pan := if c.havePAN then d.pan else false
  dit := false
  ssbs := if c.haveSSBS then c.resetSSBS else false

/-- The inputs at a reset: the equivalent EE bit has its reset value cfg.ResetEE (R50, R253); the others are as presented. -/
def resetInputs (c : Config) (i : Inputs) : Inputs :=
  if c.highestELIsEL2 then { i with hsctlrEE := c.resetEE } else { i with sctlrEE := c.resetEE }

/-- The fetch context of a value of M under inputs (20_memory.md R86). -/
def contextOf (c : Config) (inp : Inputs) (m : BitVec 5) : FetchContext := ⟨elOfCode c m inp.security, inp.security⟩

end Sys2Proof.Machine
end

