-- ==== Sys2Proof/Machine/State.lean ====
section
/-! DEFINITION. The state of the machine, the reasons a step can stop, and the state after reset. INVENTORY.md lists every
field with the rule that names it. -/

namespace Sys2Proof.Machine

/-- The state: plain data. -/
structure State where
  /-- The implementation, changed by no step (00_scope.md R6; log entry 1). -/
  cfg : Config
  /-- PSTATE (10_state.md R20). -/
  pstate : PState
  /-- The SPSR of each mode (10_state.md R42). -/
  spsr : PerMode PState
  /-- x[0] to x[14] (10_state.md R47). -/
  x : Vector Word 15
  /-- The pc (10_state.md R48). -/
  pc : Word
  /-- Memory (20_memory.md R81). -/
  mem : Memory
  /-- The outside inputs of this step (10_state.md R44; log entry 21). -/
  inp : Inputs
  /-- What the environment presents at the coming steps, the next first (log entry 21). -/
  env : List EnvStep
  /-- The asynchronous exceptions that are pending (60_exceptions.md R222; log entry 22). -/
  pending : AsyncSet
  /-- The old fetch contexts of an open window (10_state.md R46 (c), 20_memory.md R86; log entry 24). -/
  stale : List FetchContext
  /-- The context the last fetch used (the model's own, log entry 24). -/
  lastFetch : FetchContext
  /-- How many free values have been drawn (the model's own, log entry 33). -/
  freeCount : Nat
deriving DecidableEq, Repr

/-- Why the machine stops with a fault. -/
inductive Fault where
  /-- A fetch at an address that is no multiple of 4 (A32) or 2 (T32) under AlignPolicy `stop` (20_memory.md R90). Raised by the
  fetch. Safe. -/
  | misalignedFetch
  /-- A word load at an address that is no multiple of 4 under AlignPolicy `stop` (20_memory.md R90). Raised by LDR. Safe. -/
  | misalignedAccess
deriving DecidableEq, Repr

/-- Why there is no meaning. -/
inductive Refusal where
  /-- An instruction not modelled yet. Raised by no arm. Safe. -/
  | notModelled (mnemonic : String)
  /-- Bits that are no instruction of the spec (30_encoding.md R108, R112; 93 U23, U26). Raised by the fetch. Safe. -/
  | undecodable (e : DecodeError)
  /-- CPS, SETEND or SETPAN inside an IT block (30_encoding.md R106, 92 D26). Raised by their T32 forms. Safe. -/
  | insideItBlock
  /-- SETEND naming the byte order an implementation lacks (42_setend.md R173, 92 D10). Raised by SETEND. Safe. -/
  | absentByteOrder
  /-- An exception return whose checks are not in the spec (91 N19). Raised by `exceptionReturn`, which no instruction
  calls. Safe. -/
  | exceptionReturnChecks
deriving DecidableEq, Repr

/-- The state after a Warm reset to AArch32 state (70_reset_and_hazards.md R251), for a configuration, the inputs presented
and the draws. An SPSR is a draw but for its J slot, which holds 0: R251 leaves the SPSRs as draws and 92 D9 says that the slot
holds 0; the model follows D9 here too (log entry 19). -/
def State.warmReset (c : Config) (i : Inputs) (d : ResetDraws) : State where
  cfg := c
  pstate := resetPState c d
  spsr := d.spsr.map savedPState
  x := d.x
  pc := d.pc
  mem := d.mem
  inp := resetInputs c i
  env := []
  pending := AsyncSet.none
  stale := []
  lastFetch := contextOf c (resetInputs c i) (resetPState c d).m
  freeCount := 0

/-- The machine right after reset: the reference implementation with the values log entries 2 to 6 name. -/
def State.reset : State := State.warmReset referenceConfig referenceInputs zeroDraws

end Sys2Proof.Machine
end

