-- ==== Sys2Proof/Machine/Ops.lean ====
section
/-! DEFINITION. The operations over memory, registers and PSTATE that the meanings share: memory and byte order, free values,
the pc, the write of PSTATE.M, taking an exception and returning from one, and Warm reset as an event. -/

namespace Sys2Proof.Machine

/-! Memory -/

/-- What a byte that nothing has written reads as (log entry 5, DESIGN CHOICE). -/
def Memory.unlisted : Byte := 0

/-- One byte of memory. -/
def Memory.read : Memory → Nat → Byte
  | [], _ => Memory.unlisted
  | (a, b) :: m, k => if k = a then b else Memory.read m k

/-- One byte written, in canonical form: an entry equal to what an unlisted address reads as is removed. -/
def Memory.write : Memory → Nat → Byte → Memory
  | [], k, v => if v = Memory.unlisted then [] else [(k, v)]
  | (a, b) :: m, k, v =>
    if k < a then (if v = Memory.unlisted then (a, b) :: m else (k, v) :: (a, b) :: m)
    else if k = a then (if v = Memory.unlisted then m else (k, v) :: m)
    else (a, b) :: Memory.write m k v

/-- The canonical form: addresses strictly rising and inside the 32-bit space, no entry equal to what an unlisted address
reads as. -/
abbrev Memory.wf (m : Memory) : Prop :=
  m.Pairwise (fun p q => p.1 < q.1) ∧ ∀ c ∈ m, c.1 < 2 ^ 32 ∧ c.2 ≠ Memory.unlisted

/-- `k` bytes from address `a` upwards; addresses wrap at the top of the space (log entry 8). -/
def Memory.readBytes (m : Memory) (a : Word) : Nat → List Byte
  | 0 => []
  | k + 1 => m.read a.toNat :: Memory.readBytes m (a + 1) k

/-- A list of bytes written from address `a` upwards. -/
def Memory.writeBytes (m : Memory) (a : Word) : List Byte → Memory
  | [] => m
  | b :: bs => Memory.writeBytes (m.write a.toNat b) (a + 1) bs

/-- The value of bytes in ascending address order under PSTATE.E: the lowest address least significant when E is 0, most
significant when E is 1 (20_memory.md R81, 92 D19). -/
def valueOfBytes (e : Bool) (bs : List Byte) : Nat := natOfBytes (if e then bs.reverse else bs)

/-- The `n` bytes of a value in ascending address order under PSTATE.E: the inverse of `valueOfBytes` (R81, D19). -/
def bytesOfValue (e : Bool) (n : Nat) (v : Nat) : List Byte :=
  if e then (bytesOfNat n v).reverse else bytesOfNat n v

/-- MemRead(a, n): `n` bytes in the current byte order (R8, R80, R81). -/
def State.memRead (s : State) (a : Word) (n : Nat) : BitVec (8 * n) :=
  BitVec.ofNat (8 * n) (valueOfBytes s.pstate.e (s.mem.readBytes a n))

/-- MemWrite(a, n, v) (R8, R81). No instruction of the table stores. -/
def State.memWrite (s : State) (a : Word) (n : Nat) (v : BitVec (8 * n)) : State :=
  { s with mem := s.mem.writeBytes a (bytesOfValue s.pstate.e n v.toNat) }

/-- The address of an access of `n` bytes at `a` under the alignment policy, `none` where the model stops (R90, D18; log 25).
The sizes are powers of two. -/
def alignedAddress (p : AlignPolicy) (a : Word) (n : Nat) : Option Word :=
  if a.toNat % n = 0 then some a
  else match p with
    | .stop => none
    | .bytewise => some a
    | .roundDown => some (BitVec.ofNat 32 (a.toNat - a.toNat % n))

/-! Registers, pc, free values -/

/-- Read of x[r] (10_state.md R47). -/
def State.readReg (s : State) (r : Reg) : Word := s.x[r]

/-- Write of x[r] (R47). -/
def State.writeReg (s : State) (r : Reg) (v : Word) : State := { s with x := s.x.set r v }

/-- pc moved past an instruction of `n` bytes (10_state.md R48; wrapping is log entry 8). -/
def State.advance (s : State) (n : Nat) : State := { s with pc := s.pc + BitVec.ofNat 32 n }

/-- The free value the next draw gives (log entry 33). -/
def State.freeWord (s : State) : Word := Config.freeWord s.freeCount

/-- The state after one draw. -/
def State.drawn (s : State) : State := { s with freeCount := s.freeCount + 1 }

/-- The current mode; `none` for a reserved value of M. -/
def State.mode (s : State) : Option Mode := modeOf s.cfg s.pstate.m

/-- Executing at PL0 (40_cpsr_access.md R123). -/
def State.pl0 (s : State) : Bool := atPL0 s.cfg s.pstate.m

/-- The fetch context that is current (20_memory.md R86). -/
def State.context (s : State) : FetchContext := contextOf s.cfg s.inp s.pstate.m

/-! The write of PSTATE.M -/

/-- A legal change of M (44 R199): M and the Security state entered; a change of context opens the fetch window, or
lengthens one that is open (20_memory.md R86, 92 D20; log entries 20 and 24). -/
def State.changeMode (s : State) (new : BitVec 5) : State :=
  let inp' : Inputs := { s.inp with security := targetSecurity s.cfg s.inp s.pstate.m new }
  { s with
    pstate := { s.pstate with m := new }
    inp := inp'
    stale := if contextOf s.cfg inp' new = s.context ∨ s.context ∈ s.stale then s.stale else s.context :: s.stale }

/-- An illegal change of M: M unchanged, IL set (44 R194). -/
def State.setIL (s : State) : State := { s with pstate := { s.pstate with il := true } }

/-- WriteModeByInstr (44 R195). -/
def State.writeMode (s : State) (new : BitVec 5) : State :=
  if illegalModeChange s.cfg s.inp s.pstate.m new then s.setIL else s.changeMode new

/-! Taking an exception -/

/-- The mask bits an entry sets (60_exceptions.md R215): A, I, F as named. -/
def entrySetsA : EntryMask → Bool
  | .a | .ai | .af | .aif => true
  | .i | .f | .fi => false

/-- See `entrySetsA`. -/
def entrySetsI : EntryMask → Bool
  | .i | .ai | .fi | .aif => true
  | .a | .f | .af => false

/-- See `entrySetsA`. -/
def entrySetsF : EntryMask → Bool
  | .f | .af | .fi | .aif => true
  | .a | .i | .ai => false

/-- What an entry makes of a bit (60_exceptions.md R218). -/
def applyBitRule : BitRule → Bool → Bool
  | .keep, b => b
  | .zero, _ => false
  | .one, _ => true
  | .flip, b => !b

/-- PSTATE after an exception entry to AArch32 state, field by field (60_exceptions.md R211 to R219). -/
def entryPState (c : Config) (inp : Inputs) (exc : ExcKind) (target : Mode) (old : PState) : PState :=
  let mask := (c.entryMask.get exc).get target
  let toEL2 := decide (target = .hyp)
  { old with
    m := modeCode c target
    t := if toEL2 then inp.hsctlrTE else inp.sctlrTE
    it := 0
    e := if c.bothEndian then (if toEL2 then inp.hsctlrEE else inp.sctlrEE) else old.e
    il := false
    a := old.a || entrySetsA mask
    i := old.i || entrySetsI mask
    f := old.f || entrySetsF mask
    uinj := if c.haveUINJ then false else old.uinj
    pan := if c.havePAN then applyBitRule (c.entryPAN.get target) old.pan else old.pan
    ssbs := if c.haveSSBS then applyBitRule (c.entrySSBS.get target) old.ssbs else old.ssbs }

/-- The inputs after an entry: Monitor mode is Secure (10_state.md R45). An entry to another mode, one that leaves Monitor mode
included, keeps the current Security state and does not read SCR.NS: 60_exceptions.md R219 is silent, and 00_scope.md R6 and GK14
word SCR.NS as the state entered when Monitor mode is left, so this is the model's choice (log entry 20). -/
def entryInputs (inp : Inputs) (target : Mode) : Inputs :=
  if target = .monitor then { inp with security := .secure } else inp

/-- TakeExceptionToAArch32 (60_exceptions.md R219). The pc is a free value: where control goes is not in the source (91 N38;
log entry 18). The fetch window closes where the entry changes the context or is a Context Synchronization event
(20_memory.md R86 (a), R89). -/
def State.enterException (s : State) (exc : ExcKind) (target : Mode) : State :=
  let p' := entryPState s.cfg s.inp exc target s.pstate
  let inp' := entryInputs s.inp target
  { s.drawn with
    pstate := p'
    spsr := s.spsr.set target (savedPState s.pstate)
    inp := inp'
    pc := s.freeWord
    stale := if s.cfg.contextSync.exceptionEntry ∨ contextOf s.cfg inp' p'.m ≠ s.context then [] else s.stale }

/-- An exception taken to the target mode its rule gives (60_exceptions.md R216, R220). -/
def State.takeException (s : State) (exc : ExcKind) : State :=
  s.enterException exc (exceptionTarget s.cfg s.inp exc s.pstate.m)

/-! Returning from an exception -/

/-- Whether the saved M can be returned to as far as the spec says: a permitted mode, at no higher Exception level
(44 R201, 91 N19; log entry 28). -/
def State.returnPermitted (s : State) (saved : PState) : Bool :=
  permittedMode s.cfg saved.m &&
    decide ((elOfCode s.cfg saved.m (targetSecurity s.cfg s.inp s.pstate.m saved.m)).number
      ≤ (elOfCode s.cfg s.pstate.m s.inp.security).number)

/-- PSTATE after a return: every field the entry saved comes back (60_exceptions.md R226); J stays 0, E stays where the
implementation has one byte order, and a field of an absent feature stays. -/
def returnPState (c : Config) (now saved : PState) : PState :=
  { saved with
    j := false
    e := if c.bothEndian then saved.e else now.e
    uinj := if c.haveUINJ then saved.uinj else now.uinj
    pan := if c.havePAN then saved.pan else now.pan
    dit := if c.haveDIT then saved.dit else now.dit
    ssbs := if c.haveSSBS then saved.ssbs else now.ssbs }

/-- Exception return from the current mode's SPSR, as far as the spec gives it (60_exceptions.md R226, R202). No instruction
of the table is one. The pc is a free value; the change of context is synchronous (20_memory.md R86 (a)). In User and System mode
it restores from the slot of that mode, although 91 N8 says not to assume that these modes have an SPSR: the model's choice (log
entries 19 and 28). -/
def State.exceptionReturn (s : State) : Host.Outcome State Fault Refusal :=
  match s.mode with
  | none => .refused .exceptionReturnChecks
  | some md =>
    let saved := s.spsr.get md
    if s.returnPermitted saved then
      let inp' : Inputs := { s.inp with security := targetSecurity s.cfg s.inp s.pstate.m saved.m }
      .next { s.drawn with
        pstate := returnPState s.cfg s.pstate saved
        inp := inp'
        pc := s.freeWord
        stale := if s.cfg.contextSync.exceptionReturn ∨ contextOf s.cfg inp' saved.m ≠ s.context then [] else s.stale }
    else .refused .exceptionReturnChecks

/-! Warm reset as an event -/

/-- A Warm reset of a running machine: what R251 sets, with fresh draws; the environment's list, the pending exceptions and the
count of free values stay (log entry 39). The Security state stays the one the running machine held, Non-secure too: the state a
reset enters is not in the source (70_reset_and_hazards.md R252, GK25), so this is the model's choice (log entry 39). -/
def State.afterWarmReset (s : State) (d : ResetDraws) : State :=
  { State.warmReset s.cfg s.inp d with env := s.env, pending := s.pending, freeCount := s.freeCount }

end Sys2Proof.Machine
end

