-- ==== Sys2Proof/Machine/Admit.lean ====
section
/-! DEFINITION. What happens around an instruction: asynchronous exceptions, the Illegal Execution state check, UINJ, the fetch
with its window, decoding; and after it the advance of IT and the environment's next inputs (60_exceptions.md R220, R222,
R225; 20_memory.md R84, R86). Also the placing of a program word for the host. -/

namespace Sys2Proof.Machine

/-- What precedes an instruction: an exception taken instead, an instruction to run in a state, or a stop. -/
inductive Admission where
  | took (s : State)
  | run (i : Instr) (s : State)
  | fault (r : Fault)
  | refused (r : Refusal)
deriving DecidableEq, Repr

/-- The pending exceptions whose mask bit is 0 (60_exceptions.md R222, 92 D30). -/
def State.deliverable (s : State) : List ExcKind :=
  (if s.pending.serror && !s.pstate.a then [.serror] else []) ++ (if s.pending.irq && !s.pstate.i then [.irq] else [])
    ++ (if s.pending.fiq && !s.pstate.f then [.fiq] else [])

/-- The choice among the deliverable exceptions that a draw makes: one of them, or none for now (60_exceptions.md R222, R223;
log entry 22). -/
def asyncChoice (ds : List ExcKind) (w : Word) : Option ExcKind := ds[w.toNat % (ds.length + 1)]?

/-- One pending bit given a value. -/
def AsyncSet.put (p : AsyncSet) (exc : ExcKind) (b : Bool) : AsyncSet :=
  match exc with
  | .serror => { p with serror := b }
  | .irq => { p with irq := b }
  | .fiq => { p with fiq := b }
  | .illegalState | .undefinedInstruction => p

/-- An asynchronous exception taken; whether it stays pending is a free value (60_exceptions.md R223; log entry 22). -/
def State.takeAsync (s : State) (exc : ExcKind) : State :=
  let s' := s.takeException exc
  { s'.drawn with pending := s'.pending.put exc (bit s'.freeWord 0) }

/-- Where the next instruction is fetched, `none` where the alignment policy stops (10_state.md R48, 20_memory.md R90). -/
def State.fetchAddress (s : State) : Option Word :=
  alignedAddress s.cfg.alignPolicy s.pc (if s.pstate.t then 2 else 4)

/-- The context of a fetch: the current one, or inside the window any of the current and the old ones, a free choice
(20_memory.md R86 (d); log entry 24). -/
def State.recordFetch (s : State) : State :=
  match s.stale with
  | [] => { s with lastFetch := s.context }
  | old :: more =>
    { s.drawn with lastFetch := (s.context :: old :: more).getD (s.freeWord.toNat % (more.length + 2)) s.context }

/-- Fetch and decode at the pc. With one flat memory the bytes do not depend on the context (20_memory.md R87). -/
def State.fetchDecode (s : State) : Admission :=
  match s.fetchAddress with
  | none => .fault .misalignedFetch
  | some a =>
    match decodeBytes s.pstate.t (s.mem.readBytes a 4) with
    | .error e => .refused (.undecodable e)
    | .ok (i, _) => .run i s.recordFetch

/-- An attempt to execute an instruction: the Illegal Execution state check first (60_exceptions.md R220, 92 D36), then UINJ
(R225, 92 D31), then fetch and decode. -/
def State.attempt (s : State) : Admission :=
  if s.pstate.il then .took (s.takeException .illegalState)
  else if s.cfg.haveUINJ && s.pstate.uinj then .took (s.takeException .undefinedInstruction)
  else s.fetchDecode

/-- What a step does before the instruction: a deliverable asynchronous exception may be taken first, which one and whether
being a free choice (60_exceptions.md R222, R223; 92 D30, D36). -/
def State.admission (s : State) : Admission :=
  match s.deliverable with
  | [] => s.attempt
  | e :: es =>
    match asyncChoice (e :: es) s.freeWord with
    | some exc => .took (s.drawn.takeAsync exc)
    | none => s.drawn.attempt

/-- IT after an instruction that ran inside an IT block in T32 state: how it advances is not in the source, so it is a free
value (91 N24; log entry 14). An exception entry has set IT to 0, and that stays. -/
def advanceIT (before after : State) : State :=
  if before.pstate.t ∧ before.pstate.it ≠ 0 ∧ after.pstate.it = before.pstate.it then
    { after.drawn with pstate := { after.pstate with it := field after.freeWord 0 8 } }
  else after

/-- The environment's next inputs and arrivals (10_state.md R44, 60_exceptions.md R223; log entry 21). With no more listed, the
inputs stay. A Security state presented here that differs from the current one changes the fetch context at once and opens no
window: 20_memory.md R86 speaks of changes made by an instruction, an entry or a return, so this is the model's choice (log entry
24). -/
def State.nextInputs (s : State) : State :=
  match s.env with
  | [] => s
  | e :: rest => { s with inp := e.inp, pending := s.pending.union e.arrivals, env := rest }

/-- What a step does after an instruction that ran from `before`. -/
def endOutcome (before : State) : Host.Outcome State Fault Refusal → Host.Outcome State Fault Refusal
  | .next after => .next (advanceIT before after).nextInputs
  | .fault r => .fault r
  | .refused r => .refused r

/-- A program word placed where the next step fetches, with the PSTATE.T its row needs and nothing in the way of the fetch: IL
and UINJ 0, no exception pending (log entry 34). -/
def State.placeInstr (s : State) (t : Bool) (bs : List Byte) : State :=
  let s' : State := { s with pstate := { s.pstate with t := t, il := false, uinj := false }, pending := AsyncSet.none }
  { s' with mem := s'.mem.writeBytes (s'.fetchAddress.getD s'.pc) bs }

end Sys2Proof.Machine
end

