-- ==== Sys2Proof/Machine/Operands.lean ====
section
/-! DEFINITION. Operand forms: the modified immediate of MSR (immediate), the address of LDR, and the byte order an SETEND
names (30_encoding.md R111, 93 GK34). -/

namespace Sys2Proof.Machine

/-- imm32 = ROR(zext_32(imm12[7:0]), 2 * imm12[11:8]) (R111, 40_cpsr_access.md R127). -/
def expandImm12 (imm12 : BitVec 12) : Word :=
  (place 32 (field imm12 0 8) 0).rotateRight (2 * (field imm12 8 4).toNat)

/-- The address of LDR, offset form: the base plus or minus the zero-extended immediate (opcode_table.json, LDR row). -/
def offsetAddress (base : Word) (up : Bool) (imm12 : BitVec 12) : Word :=
  if up then base + place 32 imm12 0 else base - place 32 imm12 0

/-- The mask bit that selects lane f [31:24], s [23:16], x [15:8], c [7:0] (R111, 92 D14). -/
def laneF (mask : BitVec 4) : Bool := bit mask 3
/-- See `laneF`. -/
def laneS (mask : BitVec 4) : Bool := bit mask 2
/-- See `laneF`. -/
def laneX (mask : BitVec 4) : Bool := bit mask 1
/-- See `laneF`. -/
def laneC (mask : BitVec 4) : Bool := bit mask 0

end Sys2Proof.Machine
end

