-- ==== Sys2Proof/Machine/Flags.lean ====
section
/-! DEFINITION. The status computations: the CPSR as a view of PSTATE, the write of the CPSR by an instruction, the masks of
CPS, and whether a condition passes (10_state.md R38, R39; 40_cpsr_access.md R120, R123; 41_cps.md R153). -/

namespace Sys2Proof.Machine

/-- CPSRRead() (10_state.md R39), each field at its bit of R38. -/
def cpsrRead (c : Config) (p : PState) : Word :=
  placeBit 32 p.n 31 ||| placeBit 32 p.z 30 ||| placeBit 32 p.c 29 ||| placeBit 32 p.v 28 ||| placeBit 32 p.q 27
    ||| placeBit 32 (c.haveSSBS && p.ssbs) 23 ||| placeBit 32 (c.havePAN && p.pan) 22
    ||| placeBit 32 (c.haveDIT && p.dit) 21 ||| place 32 p.ge 16 ||| placeBit 32 p.e 9
    ||| placeBit 32 p.a 8 ||| placeBit 32 p.i 7 ||| placeBit 32 p.f 6
    ||| placeBit 32 true 4 ||| place 32 (field p.m 0 4) 0

/-- The bits of the APSR: N, Z, C, V, Q (31:27) and GE (19:16) (10_state.md R41). -/
def apsrBits : Word := 0xF80F0000

/-- What an MRS reads: CPSRRead(), at PL0 with a free value in every bit outside the APSR (R120 (d), 92 D15, 93 U25; log entry
15). -/
def State.mrsValue (s : State) : Word :=
  if s.pl0 then (cpsrRead s.cfg s.pstate &&& apsrBits) ||| (s.freeWord &&& ~~~apsrBits)
  else cpsrRead s.cfg s.pstate

/-- MRS into x[r]; a draw is counted at PL0 (R120). -/
def State.readCpsrInto (s : State) (r : Reg) : State :=
  let s' := s.writeReg r s.mrsValue
  if s.pl0 then s'.drawn else s'

/-- The fields of PSTATE other than M that CPSRWriteByInstr writes, lane by lane (40_cpsr_access.md R123). -/
def cpsrWriteFields (c : Config) (privileged : Bool) (value : Word) (mask : BitVec 4) (p : PState) : PState :=
  { p with
    n := if laneF mask then bit value 31 else p.n
    z := if laneF mask then bit value 30 else p.z
    c := if laneF mask then bit value 29 else p.c
    v := if laneF mask then bit value 28 else p.v
    q := if laneF mask then bit value 27 else p.q
    ssbs := if laneS mask && c.haveSSBS then bit value 23 else p.ssbs
    pan := if laneS mask && c.havePAN && privileged then bit value 22 else p.pan
    dit := if laneS mask && c.haveDIT then bit value 21 else p.dit
    ge := if laneS mask then field value 16 4 else p.ge
    e := if laneX mask && c.bothEndian then bit value 9 else p.e
    a := if laneX mask && privileged then bit value 8 else p.a
    i := if laneC mask && privileged then bit value 7 else p.i
    f := if laneC mask && privileged then bit value 6 else p.f }

/-- CPSRWriteByInstr (40_cpsr_access.md R123): the fields, and above PL0 the mode through WriteModeByInstr. The privilege is
that of the mode before the instruction (70_reset_and_hazards.md R263). -/
def State.cpsrWrite (s : State) (value : Word) (mask : BitVec 4) : State :=
  let s' := { s with pstate := cpsrWriteFields s.cfg (!s.pl0) value mask s.pstate }
  if laneC mask && !s.pl0 then s'.writeMode (field value 0 5) else s'

/-- The masks a CPS names set to `b` (41_cps.md R153). -/
def setMasks (b : Bool) (fl : IFlags) (p : PState) : PState :=
  { p with a := if fl.a then b else p.a, i := if fl.i then b else p.i, f := if fl.f then b else p.f }

/-- CPSOp for CPSIE (`b` = 0) and CPSID (`b` = 1) (41_cps.md R153); at PL0 no effect (R154). -/
def State.cpsMasks (s : State) (b : Bool) (fl : IFlags) (mode : Option (BitVec 5)) : State :=
  if s.pl0 then s
  else
    let s' := { s with pstate := setMasks b fl s.pstate }
    match mode with
    | some m => s'.writeMode m
    | none => s'

/-- CPSOp for CPS #mode (41_cps.md R152, R153); at PL0 no effect (R154). -/
def State.cpsMode (s : State) (mode : BitVec 5) : State := if s.pl0 then s else s.writeMode mode

/-- N:Z:C:V, N most significant. -/
def flagBits (p : PState) : BitVec 4 := placeBit 4 p.n 3 ||| placeBit 4 p.z 2 ||| placeBit 4 p.c 1 ||| placeBit 4 p.v 0

/-- Whether an A32 instruction's condition passes: 1110 always does; the others are not in the source (92 D39; log 13). -/
def conditionPassed (cond : BitVec 4) (p : PState) : Bool :=
  cond == 0b1110 || Config.conditionHolds cond (flagBits p)

/-- Whether a conditional T32 instruction passes: always outside an IT block; inside one it is not in the source (91 N24;
log entry 14). -/
def itPassed (p : PState) : Bool := p.it == 0 || Config.itConditionHolds p.it (flagBits p)

end Sys2Proof.Machine
end

