-- ==== Sys2Proof/Machine/Cps.lean ====
section
/-! DEFINITION. CPSIE, CPSID and CPS (41_cps.md). -/

namespace Sys2Proof.Machine

/-- An instruction that may not stand in an IT block, in its T32 form (30_encoding.md R106, 92 D26; log entry 14). -/
def outsideItBlock (s : State) (run : Host.Outcome State Fault Refusal) : Host.Outcome State Fault Refusal :=
  if s.pstate.it = 0 then run else .refused .insideItBlock

/-- CPSIE, A32 (R150). -/
def execCpsieA1 (fl : IFlags) (mode : Option (BitVec 5)) (s : State) : Host.Outcome State Fault Refusal :=
  .next ((s.cpsMasks false fl mode).advance 4)

/-- CPSID, A32 (R151). -/
def execCpsidA1 (fl : IFlags) (mode : Option (BitVec 5)) (s : State) : Host.Outcome State Fault Refusal :=
  .next ((s.cpsMasks true fl mode).advance 4)

/-- CPS, A32 (R152). -/
def execCpsA1 (mode : BitVec 5) (s : State) : Host.Outcome State Fault Refusal :=
  .next ((s.cpsMode mode).advance 4)

/-- CPSIE, T32 T1 (R150). -/
def execCpsieT1 (fl : IFlags) (s : State) : Host.Outcome State Fault Refusal :=
  outsideItBlock s (.next ((s.cpsMasks false fl none).advance 2))

/-- CPSID, T32 T1 (R151). -/
def execCpsidT1 (fl : IFlags) (s : State) : Host.Outcome State Fault Refusal :=
  outsideItBlock s (.next ((s.cpsMasks true fl none).advance 2))

/-- CPSIE, T32 T2 (R150). -/
def execCpsieT2 (fl : IFlags) (mode : Option (BitVec 5)) (s : State) : Host.Outcome State Fault Refusal :=
  outsideItBlock s (.next ((s.cpsMasks false fl mode).advance 4))

/-- CPSID, T32 T2 (R151). -/
def execCpsidT2 (fl : IFlags) (mode : Option (BitVec 5)) (s : State) : Host.Outcome State Fault Refusal :=
  outsideItBlock s (.next ((s.cpsMasks true fl mode).advance 4))

/-- CPS, T32 T2 (R152). -/
def execCpsT2 (mode : BitVec 5) (s : State) : Host.Outcome State Fault Refusal :=
  outsideItBlock s (.next ((s.cpsMode mode).advance 4))

end Sys2Proof.Machine
end

