-- ==== Sys2Proof/Machine/Load.lean ====
section
/-! DEFINITION. LDR (immediate, word, offset form), listed for the byte-order rule (20_memory.md R81; opcode_table.json). -/

namespace Sys2Proof.Machine

/-- The word at an address in the current byte order, `none` where the alignment policy stops (R81, R90). -/
def State.loadWord (s : State) (a : Word) : Option Word :=
  (alignedAddress s.cfg.alignPolicy a 4).map fun a' => s.memRead a' 4

/-- LDR Rt, [Rn, imm12 added or subtracted], no writeback (93 GK34; log entry 31). -/
def execLdrA1 (cond : BitVec 4) (up : Bool) (rn rt : Reg) (imm12 : BitVec 12) (s : State) :
    Host.Outcome State Fault Refusal :=
  match s.loadWord (offsetAddress (s.readReg rn) up imm12) with
  | some v => .next ((if conditionPassed cond s.pstate then s.writeReg rt v else s).advance 4)
  | none => if conditionPassed cond s.pstate then .fault .misalignedAccess else .next (s.advance 4)

end Sys2Proof.Machine
end

