-- ==== Sys2Proof/Machine/Psr.lean ====
section
/-! DEFINITION. MRS, MSR (register) and MSR (immediate) on the CPSR (40_cpsr_access.md). -/

namespace Sys2Proof.Machine

/-- MRS, A32 (R120). -/
def execMrsA1 (cond : BitVec 4) (rd : Reg) (s : State) : Host.Outcome State Fault Refusal :=
  .next ((if conditionPassed cond s.pstate then s.readCpsrInto rd else s).advance 4)

/-- MRS, T32 (R120). -/
def execMrsT1 (rd : Reg) (s : State) : Host.Outcome State Fault Refusal :=
  .next ((if itPassed s.pstate then s.readCpsrInto rd else s).advance 4)

/-- MSR (register), A32 (R122). -/
def execMsrRegA1 (cond mask : BitVec 4) (rn : Reg) (s : State) : Host.Outcome State Fault Refusal :=
  .next ((if conditionPassed cond s.pstate then s.cpsrWrite (s.readReg rn) mask else s).advance 4)

/-- MSR (register), T32 (R122). -/
def execMsrRegT1 (mask : BitVec 4) (rn : Reg) (s : State) : Host.Outcome State Fault Refusal :=
  .next ((if itPassed s.pstate then s.cpsrWrite (s.readReg rn) mask else s).advance 4)

/-- MSR (immediate), A32 (R127). -/
def execMsrImmA1 (cond mask : BitVec 4) (imm12 : BitVec 12) (s : State) : Host.Outcome State Fault Refusal :=
  .next ((if conditionPassed cond s.pstate then s.cpsrWrite (expandImm12 imm12) mask else s).advance 4)

end Sys2Proof.Machine
end

