-- ==== Sys2Proof/Machine/Setend.lean ====
section
/-! DEFINITION. SETEND BE and SETEND LE (42_setend.md). -/

namespace Sys2Proof.Machine

/-- PSTATE.E written; held where the implementation has one byte order (42_setend.md R170, R171, R173; 92 D10). -/
def State.setE (s : State) (e : Bool) : State :=
  { s with pstate := { s.pstate with e := if s.cfg.bothEndian then e else s.pstate.e } }

/-- SETEND to byte order `e`, an instruction of `n` bytes: Undefined Instruction where SETEND is disabled, refused where the
implementation lacks that order (R173, D28; log entry 27); permitted in every mode (R172). -/
def setend (e : Bool) (n : Nat) (s : State) : Host.Outcome State Fault Refusal :=
  if s.cfg.setendDisabled then .next (s.takeException .undefinedInstruction)
  else if s.cfg.bothEndian = false ∧ e ≠ s.cfg.onlyEndianness then .refused .absentByteOrder
  else .next ((s.setE e).advance n)

/-- SETEND BE, A32 (R170). -/
def execSetendBeA1 (s : State) : Host.Outcome State Fault Refusal := setend true 4 s

/-- SETEND LE, A32 (R171). -/
def execSetendLeA1 (s : State) : Host.Outcome State Fault Refusal := setend false 4 s

/-- SETEND BE, T32 (R170). -/
def execSetendBeT1 (s : State) : Host.Outcome State Fault Refusal := outsideItBlock s (setend true 2 s)

/-- SETEND LE, T32 (R171). -/
def execSetendLeT1 (s : State) : Host.Outcome State Fault Refusal := outsideItBlock s (setend false 2 s)

end Sys2Proof.Machine
end

