-- ==== Sys2Proof/Machine/Setpan.lean ====
section
/-! DEFINITION. SETPAN #0 and SETPAN #1 (43_setpan.md). -/

namespace Sys2Proof.Machine

/-- PSTATE.PAN written above PL0; a no-op at PL0 (43_setpan.md R182). -/
def State.setPan (s : State) (b : Bool) : State :=
  if s.pl0 then s else { s with pstate := { s.pstate with pan := b } }

/-- SETPAN #b, an instruction of `n` bytes: Undefined Instruction without FEAT_PAN (R180, R181, R183). -/
def setpan (b : Bool) (n : Nat) (s : State) : Host.Outcome State Fault Refusal :=
  .next (if s.cfg.havePAN then (s.setPan b).advance n else s.takeException .undefinedInstruction)

/-- SETPAN #0, A32 (R180). -/
def execSetpan0A1 (s : State) : Host.Outcome State Fault Refusal := setpan false 4 s

/-- SETPAN #1, A32 (R181). -/
def execSetpan1A1 (s : State) : Host.Outcome State Fault Refusal := setpan true 4 s

/-- SETPAN #0, T32 (R180). -/
def execSetpan0T1 (s : State) : Host.Outcome State Fault Refusal := outsideItBlock s (setpan false 2 s)

/-- SETPAN #1, T32 (R181). -/
def execSetpan1T1 (s : State) : Host.Outcome State Fault Refusal := outsideItBlock s (setpan true 2 s)

end Sys2Proof.Machine
end

