-- ==== Sys2Proof/Machine/Dispatch.lean ====
section
/-! DEFINITION. One arm per constructor of Instr, each one call of that instruction's meaning. -/

namespace Sys2Proof.Machine

def exec (i : Instr) (s : State) : Host.Outcome State Fault Refusal :=
  match i with
  | .cpsieA1 flags mode => Sys2Proof.Machine.execCpsieA1 flags mode s
  | .cpsidA1 flags mode => Sys2Proof.Machine.execCpsidA1 flags mode s
  | .cpsA1 mode => Sys2Proof.Machine.execCpsA1 mode s
  | .setendBeA1 => Sys2Proof.Machine.execSetendBeA1 s
  | .setendLeA1 => Sys2Proof.Machine.execSetendLeA1 s
  | .setpan0A1 => Sys2Proof.Machine.execSetpan0A1 s
  | .setpan1A1 => Sys2Proof.Machine.execSetpan1A1 s
  | .mrsA1 cond rd => Sys2Proof.Machine.execMrsA1 cond rd s
  | .msrRegA1 cond mask rn => Sys2Proof.Machine.execMsrRegA1 cond mask rn s
  | .msrImmA1 cond mask imm12 => Sys2Proof.Machine.execMsrImmA1 cond mask imm12 s
  | .cpsieT1 flags => Sys2Proof.Machine.execCpsieT1 flags s
  | .cpsidT1 flags => Sys2Proof.Machine.execCpsidT1 flags s
  | .cpsieT2 flags mode => Sys2Proof.Machine.execCpsieT2 flags mode s
  | .cpsidT2 flags mode => Sys2Proof.Machine.execCpsidT2 flags mode s
  | .cpsT2 mode => Sys2Proof.Machine.execCpsT2 mode s
  | .setendBeT1 => Sys2Proof.Machine.execSetendBeT1 s
  | .setendLeT1 => Sys2Proof.Machine.execSetendLeT1 s
  | .setpan0T1 => Sys2Proof.Machine.execSetpan0T1 s
  | .setpan1T1 => Sys2Proof.Machine.execSetpan1T1 s
  | .mrsT1 rd => Sys2Proof.Machine.execMrsT1 rd s
  | .msrRegT1 mask rn => Sys2Proof.Machine.execMsrRegT1 mask rn s
  | .ldrA1 cond up rn rt imm12 => Sys2Proof.Machine.execLdrA1 cond up rn rt imm12 s

end Sys2Proof.Machine
end

