-- ==== Sys2Proof/Machine/Step.lean ====
section
/-! DEFINITION. One step of the machine, and the placing of a table word for the host. -/

namespace Sys2Proof.Machine

/-- One step: an exception taken before the instruction, or one instruction fetched, decoded and executed
(60_exceptions.md R220, Step). -/
def step (s : State) : Host.Outcome State Fault Refusal :=
  match s.admission with
  | .took s' => .next s'.nextInputs
  | .run i s' => endOutcome s' (exec i s')
  | .fault r => .fault r
  | .refused r => .refused r

/-- The state with the instruction of a table word stored where `step` fetches next (log entries 34 and 35). -/
def State.withFetchWord (s : State) (nbits w : Nat) : State :=
  s.placeInstr (tableIsT32 nbits w) (tableBytes nbits w)

end Sys2Proof.Machine
end

