-- ==== Sys2Proof/Safety.lean ====
section
/-! DEFINITION. The terms the claims use: which configurations are coherent, the invariant of the machine, and what it means
that two states agree on everything but named fields. -/

namespace Sys2Proof.Safety

open Sys2Proof.Machine

/-- Every exception kind (60_exceptions.md R221). -/
def allExceptions : List ExcKind := [.illegalState, .undefinedInstruction, .serror, .irq, .fiq]

/-- The target modes of a configuration for an exception. -/
def targetModes (c : Config) (exc : ExcKind) : List Mode :=
  [(c.target.get exc).fromHyp, c.trappedTarget, (c.target.get exc).otherwise]

/-- A coherent configuration: the mode table gives nine different encodings, all with M[4] = 1 (10_state.md R31, R32); the mode
a reset enters is implemented (R50); exceptions are taken to implemented modes, never to User (60_exceptions.md R216, R219).
Log entry 1. -/
abbrev configOk (c : Config) : Prop :=
  (allModes.map (modeCode c)).Nodup ∧ (∀ md ∈ allModes, bit (modeCode c md) 4 = true)
    ∧ permittedMode c (if c.highestELIsEL2 then 0b11010 else 0b10011) = true
    ∧ ∀ exc ∈ allExceptions, ∀ md ∈ targetModes c exc, c.modeImplemented.get md = true ∧ md ≠ .user

/-- A field of a feature that is not implemented holds 0 (10_state.md R33 to R36). -/
abbrev absentFieldsZero (c : Config) (p : PState) : Prop :=
  (c.haveUINJ = false → p.uinj = false) ∧ (c.havePAN = false → p.pan = false)
    ∧ (c.haveDIT = false → p.dit = false) ∧ (c.haveSSBS = false → p.ssbs = false)

/-- PSTATE is one a run can reach: M is a permitted mode with M[4] = 1 (44 R201), J is 0 (10_state.md R24), E is the one byte
order of an implementation that has one (92 D10), absent fields hold 0. -/
abbrev pstateOk (c : Config) (p : PState) : Prop :=
  permittedMode c p.m = true ∧ bit p.m 4 = true ∧ p.j = false
    ∧ (c.bothEndian = false → p.e = c.onlyEndianness) ∧ absentFieldsZero c p

/-- The invariant of the machine; the J slot of every SPSR holds 0 (92 D9). -/
abbrev Inv (s : State) : Prop :=
  configOk s.cfg ∧ pstateOk s.cfg s.pstate ∧ s.mem.wf ∧ ∀ md ∈ allModes, (s.spsr.get md).j = false

/-- What no instruction of the table writes: the configuration, the SPSRs, memory, the environment's list, the pending
exceptions, the record of the last fetch. -/
abbrev sameOutside (s t : State) : Prop :=
  t.cfg = s.cfg ∧ t.spsr = s.spsr ∧ (∀ a : Nat, t.mem.read a = s.mem.read a) ∧ t.env = s.env ∧ t.pending = s.pending
    ∧ t.lastFetch = s.lastFetch

/-- The general registers other than x[r] are unchanged. -/
abbrev sameRegsBut (r : Reg) (s t : State) : Prop := ∀ r' : Reg, r' ≠ r → t.readReg r' = s.readReg r'

/-- All general registers are unchanged. -/
abbrev sameRegs (s t : State) : Prop := ∀ r : Reg, t.readReg r = s.readReg r

/-- The fetch window and the inputs are unchanged. -/
abbrev sameInputs (s t : State) : Prop := t.inp = s.inp ∧ t.stale = s.stale

/-- What a CPSR image shows of PSTATE, bit by bit (10_state.md R38). -/
abbrev showsCpsr (c : Config) (p : PState) (v : Word) : Prop :=
  bit v 31 = p.n ∧ bit v 30 = p.z ∧ bit v 29 = p.c ∧ bit v 28 = p.v ∧ bit v 27 = p.q
    ∧ field v 24 3 = (0 : BitVec 3) ∧ bit v 23 = (c.haveSSBS && p.ssbs) ∧ bit v 22 = (c.havePAN && p.pan)
    ∧ bit v 21 = (c.haveDIT && p.dit) ∧ bit v 20 = false ∧ field v 16 4 = p.ge ∧ field v 10 6 = (0 : BitVec 6)
    ∧ bit v 9 = p.e ∧ bit v 8 = p.a ∧ bit v 7 = p.i ∧ bit v 6 = p.f ∧ bit v 5 = false ∧ bit v 4 = true
    ∧ field v 0 4 = (field p.m 0 4 : BitVec 4)

/-- The CPSR bits that are reserved in a configuration (10_state.md R38, 40_cpsr_access.md R129). -/
def reservedBit (c : Config) (k : Nat) : Bool :=
  (24 ≤ k && k ≤ 26) || (k == 23 && !c.haveSSBS) || (k == 22 && !c.havePAN) || (k == 21 && !c.haveDIT) || k == 20
    || (10 ≤ k && k ≤ 15) || k == 5

/-- The CPSR bits that are the APSR's (10_state.md R41). -/
def apsrBit (k : Nat) : Bool := (27 ≤ k && k ≤ 31) || (16 ≤ k && k ≤ 19)

/-- The effect on M and IL of a write of `new` to PSTATE.M above PL0: an illegal change leaves M and sets IL, any other value is
written (44 R194, R195). -/
abbrev modeWritten (s t : State) (new : BitVec 5) : Prop :=
  if illegalModeChange s.cfg s.inp s.pstate.m new then t.pstate.m = s.pstate.m ∧ t.pstate.il = true
  else t.pstate.m = new ∧ t.pstate.il = s.pstate.il

/-- The same with no write of M. -/
abbrev modeKept (s t : State) : Prop := t.pstate.m = s.pstate.m ∧ t.pstate.il = s.pstate.il

/-- The condition flags, Q and GE are unchanged. -/
abbrev sameFlags (s t : State) : Prop :=
  t.pstate.n = s.pstate.n ∧ t.pstate.z = s.pstate.z ∧ t.pstate.c = s.pstate.c ∧ t.pstate.v = s.pstate.v
    ∧ t.pstate.q = s.pstate.q ∧ t.pstate.ge = s.pstate.ge

/-- J, T, IT and UINJ are unchanged. -/
abbrev sameHidden (s t : State) : Prop :=
  t.pstate.j = s.pstate.j ∧ t.pstate.t = s.pstate.t ∧ t.pstate.it = s.pstate.it ∧ t.pstate.uinj = s.pstate.uinj

/-- A, I and F are unchanged. -/
abbrev sameMasks (s t : State) : Prop :=
  t.pstate.a = s.pstate.a ∧ t.pstate.i = s.pstate.i ∧ t.pstate.f = s.pstate.f

/-- What a write of `value` under a field mask leaves in PSTATE (40_cpsr_access.md R123). -/
abbrev cpsrWritten (s t : State) (value : Word) (mask : BitVec 4) : Prop :=
  t.pstate.n = (if bit mask 3 then bit value 31 else s.pstate.n)
    ∧ t.pstate.z = (if bit mask 3 then bit value 30 else s.pstate.z)
    ∧ t.pstate.c = (if bit mask 3 then bit value 29 else s.pstate.c)
    ∧ t.pstate.v = (if bit mask 3 then bit value 28 else s.pstate.v)
    ∧ t.pstate.q = (if bit mask 3 then bit value 27 else s.pstate.q)
    ∧ t.pstate.ssbs = (if bit mask 2 ∧ s.cfg.haveSSBS then bit value 23 else s.pstate.ssbs)
    ∧ t.pstate.pan = (if bit mask 2 ∧ s.cfg.havePAN ∧ s.pl0 = false then bit value 22 else s.pstate.pan)
    ∧ t.pstate.dit = (if bit mask 2 ∧ s.cfg.haveDIT then bit value 21 else s.pstate.dit)
    ∧ t.pstate.ge = (if bit mask 2 then field value 16 4 else s.pstate.ge)
    ∧ t.pstate.e = (if bit mask 1 ∧ s.cfg.bothEndian then bit value 9 else s.pstate.e)
    ∧ t.pstate.a = (if bit mask 1 ∧ s.pl0 = false then bit value 8 else s.pstate.a)
    ∧ t.pstate.i = (if bit mask 0 ∧ s.pl0 = false then bit value 7 else s.pstate.i)
    ∧ t.pstate.f = (if bit mask 0 ∧ s.pl0 = false then bit value 6 else s.pstate.f)
    ∧ sameHidden s t
    ∧ (if bit mask 0 ∧ s.pl0 = false then modeWritten s t (field value 0 5) else modeKept s t)

/-- What taking an asynchronous exception leaves: the state of an entry to its target mode, in which no pending bit but its own
may differ (60_exceptions.md R219, R222, R223). -/
abbrev asyncEntered (s : State) (exc : ExcKind) (t : State) : Prop :=
  let target := exceptionTarget s.cfg s.inp exc s.pstate.m
  let u := s.enterException exc target
  t.spsr.get target = { s.pstate with j := false } ∧ t.pstate.m = modeCode s.cfg target
    ∧ t.pstate = u.pstate ∧ t.spsr = u.spsr ∧ t.inp = u.inp ∧ t.stale = u.stale
    ∧ t.x = s.x ∧ t.mem = s.mem ∧ t.cfg = s.cfg ∧ t.env = s.env
    ∧ (exc ≠ .serror → t.pending.serror = s.pending.serror) ∧ (exc ≠ .irq → t.pending.irq = s.pending.irq)
    ∧ (exc ≠ .fiq → t.pending.fiq = s.pending.fiq)

/-- What CPSIE (`b` = 0) or CPSID (`b` = 1) leaves in PSTATE above PL0: the named masks, M and IL as the mode operand says, and
every other field as it was (41_cps.md R150, R151, R153). -/
abbrev masksWritten (s t : State) (b : Bool) (fl : IFlags) (mode : Option (BitVec 5)) : Prop :=
  t.pstate = { s.pstate with
      a := if fl.a then b else s.pstate.a
      i := if fl.i then b else s.pstate.i
      f := if fl.f then b else s.pstate.f
      m := t.pstate.m
      il := t.pstate.il }
    ∧ match mode with
      | some m => modeWritten s t m
      | none => modeKept s t

/-- Whether an instruction is an MSR. -/
def isMsr : Instr → Bool
  | .msrRegA1 _ _ _ | .msrImmA1 _ _ _ | .msrRegT1 _ _ => true
  | .cpsieA1 _ _ | .cpsidA1 _ _ | .cpsA1 _ | .setendBeA1 | .setendLeA1 | .setpan0A1 | .setpan1A1 | .mrsA1 _ _
  | .cpsieT1 _ | .cpsidT1 _ | .cpsieT2 _ _ | .cpsidT2 _ _ | .cpsT2 _ | .setendBeT1 | .setendLeT1 | .setpan0T1
  | .setpan1T1 | .mrsT1 _ | .ldrA1 _ _ _ _ _ => false

/-- Whether an instruction is a CPSIE, CPSID or CPS. -/
def isCps : Instr → Bool
  | .cpsieA1 _ _ | .cpsidA1 _ _ | .cpsA1 _ | .cpsieT1 _ | .cpsidT1 _ | .cpsieT2 _ _ | .cpsidT2 _ _ | .cpsT2 _ => true
  | .msrRegA1 _ _ _ | .msrImmA1 _ _ _ | .msrRegT1 _ _ | .setendBeA1 | .setendLeA1 | .setpan0A1 | .setpan1A1
  | .mrsA1 _ _ | .setendBeT1 | .setendLeT1 | .setpan0T1 | .setpan1T1 | .mrsT1 _ | .ldrA1 _ _ _ _ _ => false

/-- Whether an instruction is a SETEND. -/
def isSetend : Instr → Bool
  | .setendBeA1 | .setendLeA1 | .setendBeT1 | .setendLeT1 => true
  | .cpsieA1 _ _ | .cpsidA1 _ _ | .cpsA1 _ | .cpsieT1 _ | .cpsidT1 _ | .cpsieT2 _ _ | .cpsidT2 _ _ | .cpsT2 _
  | .msrRegA1 _ _ _ | .msrImmA1 _ _ _ | .msrRegT1 _ _ | .setpan0A1 | .setpan1A1 | .mrsA1 _ _ | .setpan0T1
  | .setpan1T1 | .mrsT1 _ | .ldrA1 _ _ _ _ _ => false

/-- Whether an instruction is a SETPAN. -/
def isSetpan : Instr → Bool
  | .setpan0A1 | .setpan1A1 | .setpan0T1 | .setpan1T1 => true
  | .cpsieA1 _ _ | .cpsidA1 _ _ | .cpsA1 _ | .cpsieT1 _ | .cpsidT1 _ | .cpsieT2 _ _ | .cpsidT2 _ _ | .cpsT2 _
  | .msrRegA1 _ _ _ | .msrImmA1 _ _ _ | .msrRegT1 _ _ | .setendBeA1 | .setendLeA1 | .mrsA1 _ _ | .setendBeT1
  | .setendLeT1 | .mrsT1 _ | .ldrA1 _ _ _ _ _ => false

/-- Whether an instruction is a T32 CPS, SETEND or SETPAN: what may not stand in an IT block (30_encoding.md R106). -/
def isT32Unconditional (i : Instr) : Bool := (encode i).isT32 && (isCps i || isSetend i || isSetpan i)

/-- An instruction's length in bytes (10_state.md R48, 30_encoding.md R101). -/
def size (i : Instr) : Nat := (encode i).bytes.length

/-- The address LDR forms: the base plus or minus the zero-extended immediate. -/
def ldrAddress (s : State) (up : Bool) (rn : Reg) (imm12 : BitVec 12) : Word :=
  if up then s.readReg rn + imm12.setWidth 32 else s.readReg rn - imm12.setWidth 32

/-- A reset-like state with a given PSTATE, for examples. -/
def stateWith (p : PState) : State := { State.reset with pstate := p }

end Sys2Proof.Safety
end

