-- ==== Sys2Proof/Certificates/Slice0/Obligations.lean ====
section
/-! DEFINITION. The statements about the machine, for the provers. Each docstring cites the rule or section of spec/ it comes from. A
statement of a result says that exec answers a next state; the frames are statements of their own. -/

open Sys2Proof Sys2Proof.Machine Sys2Proof.Safety

/-! Encoding -/

/-- Decoding the bytes of a well-formed instruction, in its instruction set, gives it back with the bytes after it: every
operand at every value (30_encoding.md section 3; the encodings are the spec's general knowledge, log entry 10). -/
def Obligations.DecodeEncodeRoundTrip : Prop :=
  ∀ (i : Instr) (rest : List Byte), i.wellFormed = true →
    decodeBytes (encode i).isT32 ((encode i).bytes ++ rest) = .ok (i, rest)

/-- The other direction: bytes that decode are the encoding of the instruction they decode to, which is well formed; so no
"should be" bit is ignored and no word has two readings (30_encoding.md R108 in its section 3). -/
def Obligations.DecodedBytesReencode : Prop :=
  ∀ (t : Bool) (bs : List Byte) (i : Instr) (rest : List Byte), decodeBytes t bs = .ok (i, rest) →
    i.wellFormed = true ∧ (encode i).isT32 = t ∧ (encode i).bytes ++ rest = bs

/-- Eleven known words of 30_encoding.md section 3 (R109, R110) and 95_test_vectors.md section 9, and the LDR word of
95_test_vectors.md section 10, program P2 (93 GK34, opcode_table.json). All are the spec's general knowledge (log entries 10,
31). -/
def Obligations.KnownWordsDecode : Prop :=
  decodeTableWord 32 0xF10C0080 = some (.cpsidA1 ⟨false, true, false⟩ none)
    ∧ decodeTableWord 32 0xF1020013 = some (.cpsA1 19)
    ∧ decodeTableWord 32 0xF1010200 = some .setendBeA1
    ∧ decodeTableWord 32 0xF1100200 = some .setpan1A1
    ∧ decodeTableWord 32 0xE10F0000 = some (.mrsA1 14 0)
    ∧ decodeTableWord 32 0xE129F000 = some (.msrRegA1 14 9 0)
    ∧ decodeTableWord 32 0xE321F0D3 = some (.msrImmA1 14 1 0xD3)
    ∧ decodeTableWord 16 0xB662 = some (.cpsieT1 ⟨false, true, false⟩)
    ∧ decodeTableWord 32 0xF3AF8640 = some (.cpsidT2 ⟨false, true, false⟩ none)
    ∧ decodeTableWord 32 0xF3EF8000 = some (.mrsT1 0)
    ∧ decodeTableWord 32 0xF3808900 = some (.msrRegT1 9 0)
    ∧ decodeTableWord 32 0xE5910000 = some (.ldrA1 14 true 1 0 0)

/-- The combinations of imod, M, A:I:F and mode that express no assembler form of CPS are refused in both instruction sets,
and no other combination is (30_encoding.md section 4; 92 D29). -/
def Obligations.CpsWordsWithoutFormRefused : Prop :=
  ∀ (imod : BitVec 2) (m a i f : Bool) (mode : BitVec 5),
    let named := a || i || f
    let noForm := imod = 0b01 ∨ (imod = 0b00 ∧ m = false) ∨ (m = false ∧ mode ≠ 0)
      ∨ (bit imod 1 = true ∧ named = false) ∨ (bit imod 1 = false ∧ named = true)
    let a32 : Word := 0xF1000000 ||| place 32 imod 18 ||| placeBit 32 m 17 ||| placeBit 32 a 8 ||| placeBit 32 i 7
      ||| placeBit 32 f 6 ||| place 32 mode 0
    let t32 : Half := 0x8000 ||| place 16 imod 9 ||| placeBit 16 m 8 ||| placeBit 16 a 7 ||| placeBit 16 i 6
      ||| placeBit 16 f 5 ||| place 16 mode 0
    ((∃ e, decodeA32 a32 = .error e) ↔ noForm) ∧ ((∃ e, decodeT32 0xF3AF t32 = .error e) ↔ noForm)

/-! Reset -/

/-- What a Warm reset to AArch32 state sets, as far as the source states it, at power-up and of a running machine
(10_state.md R50). -/
def Obligations.WarmResetStatedValues : Prop :=
  ∀ (c : Config) (i : Inputs) (d : ResetDraws),
    let stated (p : PState) : Prop := p.j = false ∧ p.t = c.resetT ∧ p.it = 0 ∧ (c.bothEndian = true → p.e = c.resetEE)
      ∧ p.il = false ∧ p.a = true ∧ p.i = true ∧ p.f = true ∧ p.m = (if c.highestELIsEL2 then 0b11010 else 0b10011)
      ∧ (c.haveUINJ = true → p.uinj = false) ∧ (c.haveDIT = true → p.dit = false)
      ∧ (c.haveSSBS = true → p.ssbs = c.resetSSBS)
    stated (State.warmReset c i d).pstate ∧ ∀ s : State, s.cfg = c → stated (s.afterWarmReset d).pstate

/-- What the source leaves open at a reset is a draw, for every draw, at power-up and of a running machine: the flags, Q, GE and
PAN, the registers, the SPSRs but for their J slot, the pc and memory (the decisions 92 D7, D8 and the comment of the reset
procedure; log entries 3, 4, 39); the J slot of an SPSR is 0 (92 D9; log entry 19) and E the one byte order of an implementation
that has one (92 D10). -/
def Obligations.WarmResetLeavesDraws : Prop :=
  ∀ (c : Config) (i : Inputs) (d : ResetDraws),
    let drawn (s : State) : Prop :=
      s.pstate.n = d.n ∧ s.pstate.z = d.z ∧ s.pstate.c = d.c ∧ s.pstate.v = d.v ∧ s.pstate.q = d.q ∧ s.pstate.ge = d.ge
      ∧ (c.havePAN = true → s.pstate.pan = d.pan) ∧ (c.bothEndian = false → s.pstate.e = c.onlyEndianness)
      ∧ s.x = d.x ∧ (∀ md : Mode, s.spsr.get md = { d.spsr.get md with j := false }) ∧ s.pc = d.pc ∧ s.mem = d.mem
    drawn (State.warmReset c i d) ∧ ∀ s : State, s.cfg = c → drawn (s.afterWarmReset d)

/-- Just after a reset PSTATE.E equals the equivalent EE bit (70_reset_and_hazards.md R253 in its section 1, an inference of the
spec; that the input holds its reset value then is log entry 6, DESIGN CHOICE). -/
def Obligations.ResetByteOrderIsEE : Prop :=
  ∀ (c : Config) (i : Inputs) (d : ResetDraws), c.bothEndian = true →
    let s := State.warmReset c i d
    s.pstate.e = (if c.highestELIsEL2 then s.inp.hsctlrEE else s.inp.sctlrEE)

/-- State.reset meets the invariant. -/
def Obligations.ResetMeetsInvariant : Prop := Inv State.reset

/-- Every Warm reset of a coherent configuration meets the invariant, at power-up and of a running machine. -/
def Obligations.WarmResetMeetsInvariant : Prop :=
  ∀ (c : Config) (i : Inputs) (d : ResetDraws), d.mem.wf →
    (configOk c → Inv (State.warmReset c i d)) ∧ ∀ s : State, configOk s.cfg → Inv (s.afterWarmReset d)

/-! Invariants of a step -/

/-- Every step keeps the invariant: a coherent configuration, a permitted mode with M[4] = 1, J = 0, E held where there is one
byte order, absent fields 0, memory in canonical form, the J slot of every SPSR 0 (44 section 3; 92 D9, D10). -/
def Obligations.StepKeepsInvariant : Prop :=
  ∀ s t : State, Inv s → step s = .next t → Inv t

/-- Every exception entry and every exception return the model gives keeps the invariant. -/
def Obligations.EntryAndReturnKeepInvariant : Prop :=
  ∀ s : State, Inv s → (∀ exc : ExcKind, Inv (s.takeException exc)) ∧ ∀ t, s.exceptionReturn = .next t → Inv t

/-- No step changes the configuration (log entry 1), and every step takes the environment's next entry: its inputs are those of the
coming step, and what it lets arrive is pending (log entry 21). -/
def Obligations.StepKeepsConfig : Prop :=
  ∀ s t : State, step s = .next t → t.cfg = s.cfg ∧ t.env = s.env.tail
    ∧ ∀ (e : EnvStep) (rest : List EnvStep), s.env = e :: rest → t.inp = e.inp
      ∧ (e.arrivals.serror = true → t.pending.serror = true) ∧ (e.arrivals.irq = true → t.pending.irq = true)
      ∧ (e.arrivals.fiq = true → t.pending.fiq = true)

/-- An instruction leaves every byte of memory as it was: the table has no store. -/
def Obligations.NoInstructionStores : Prop :=
  ∀ (i : Instr) (s t : State), exec i s = .next t → ∀ a : Nat, t.mem.read a = s.mem.read a

/-- Only MSR and CPS change PSTATE.M; any other instruction leaves it, unless it is an Undefined Instruction (44 section 1). -/
def Obligations.OnlyMsrAndCpsChangeMode : Prop :=
  ∀ (i : Instr) (s t : State), isMsr i = false → isCps i = false → exec i s = .next t →
    t.pstate.m = s.pstate.m ∧ t.inp = s.inp ∧ t.stale = s.stale ∨ t = s.takeException .undefinedInstruction

/-- No instruction writes T, IT, J or UINJ, unless it is an Undefined Instruction, whose entry does (40_cpsr_access.md
section 3; 10_state.md section 2). -/
def Obligations.NoInstructionWritesHiddenFields : Prop :=
  ∀ (i : Instr) (s t : State), exec i s = .next t →
    sameHidden s t ∨ ((isSetend i = true ∨ isSetpan i = true) ∧ t = s.takeException .undefinedInstruction)

/-- At PL0 no instruction changes the mode, IL, A, I, F or PAN, or an SPSR, unless it is an Undefined Instruction (92 D15, the
spec's decision). -/
def Obligations.UserModeIsConfined : Prop :=
  ∀ (i : Instr) (s t : State), s.pl0 = true → exec i s = .next t →
    (modeKept s t ∧ sameMasks s t ∧ t.pstate.pan = s.pstate.pan ∧ t.spsr = s.spsr)
      ∨ ((isSetend i = true ∨ isSetpan i = true) ∧ t = s.takeException .undefinedInstruction)

/-! MRS -/

/-- MRS above PL0 completes, and where its condition passes writes Rd with the CPSR's bits (10_state.md section 3, CPSRRead);
where it does not pass only the pc moves (log entries 13, 14). -/
def Obligations.MrsReadsCpsr : Prop :=
  ∀ (s : State) (cond : BitVec 4) (rd : Reg), s.pl0 = false →
    (∃ t, exec (.mrsA1 cond rd) s = .next t ∧ t.pc = s.pc + 4
      ∧ if conditionPassed cond s.pstate then showsCpsr s.cfg s.pstate (t.readReg rd) else t = s.advance 4)
    ∧ ∃ t, exec (.mrsT1 rd) s = .next t ∧ t.pc = s.pc + 4
      ∧ if itPassed s.pstate then showsCpsr s.cfg s.pstate (t.readReg rd) else t = s.advance 4

/-- MRS at PL0 completes; the APSR bits 31:27 and 19:16 read as above PL0, and every other bit is that of a free value (92 D15,
the spec's decision; that it stands over R121 and R128 for the RAZ bits and M[4] at PL0 is log entry 15, DESIGN CHOICE);
where it does not pass only the pc moves (log entries 13, 14, DESIGN CHOICE). -/
def Obligations.MrsAtUserReadsApsr : Prop :=
  ∀ (s : State) (cond : BitVec 4) (rd : Reg), s.pl0 = true →
    let shows (v : Word) : Prop := bit v 31 = s.pstate.n ∧ bit v 30 = s.pstate.z ∧ bit v 29 = s.pstate.c
      ∧ bit v 28 = s.pstate.v ∧ bit v 27 = s.pstate.q ∧ field v 16 4 = s.pstate.ge
      ∧ ∀ k < 32, apsrBit k = false → bit v k = bit s.freeWord k
    (∃ t, exec (.mrsA1 cond rd) s = .next t ∧ t.pc = s.pc + 4
      ∧ if conditionPassed cond s.pstate then shows (t.readReg rd) else t = s.advance 4)
    ∧ ∃ t, exec (.mrsT1 rd) s = .next t ∧ t.pc = s.pc + 4
      ∧ if itPassed s.pstate then shows (t.readReg rd) else t = s.advance 4

/-- The frame of MRS: PSTATE and every register but Rd are unchanged, and nothing is stored. -/
def Obligations.MrsFrame : Prop :=
  ∀ (s t : State) (cond : BitVec 4) (rd : Reg),
    (exec (.mrsA1 cond rd) s = .next t ∨ exec (.mrsT1 rd) s = .next t) →
      t.pstate = s.pstate ∧ sameRegsBut rd s t ∧ sameOutside s t ∧ sameInputs s t

/-- IL, IT, J, T and UINJ cannot be accessed by using the CPSR: an MRS reads the same whatever they hold, above PL0 with 0 in the
bits that are no field's (26:24, 20, 15:10, 5), which at PL0 are free (92 D15; log entry 15); an MSR writes none of them, but that
one which passes, includes the c lane above PL0 and names an illegal change of M sets IL to 1, whatever its other bits
(10_state.md section 3; 44 section 2). -/
def Obligations.HiddenFieldsHaveNoCpsrAccess : Prop :=
  (∀ (s : State) (il j t uinj : Bool) (it : BitVec 8) (cond : BitVec 4) (rd : Reg),
    let s' : State := { s with pstate := { s.pstate with il := il, j := j, t := t, uinj := uinj, it := it } }
    let raz (v : Word) : Prop := ∀ k ∈ [26, 25, 24, 20, 15, 14, 13, 12, 11, 10, 5], bit v k = false
    (∃ u u', exec (.mrsA1 cond rd) s = .next u ∧ exec (.mrsA1 cond rd) s' = .next u' ∧ u.readReg rd = u'.readReg rd
      ∧ (conditionPassed cond s.pstate = true → s.pl0 = false → raz (u.readReg rd)))
      ∧ (itPassed s.pstate = true → itPassed s'.pstate = true →
        ∃ u u', exec (.mrsT1 rd) s = .next u ∧ exec (.mrsT1 rd) s' = .next u' ∧ u.readReg rd = u'.readReg rd
          ∧ (s.pl0 = false → raz (u.readReg rd))))
  ∧ ∀ (s : State) (cond mask : BitVec 4) (rn : Reg) (imm12 : BitVec 12),
    let illegal (v : Word) : Bool := bit mask 0 && !s.pl0 && illegalModeChange s.cfg s.inp s.pstate.m (field v 0 5)
    (∃ t, exec (.msrRegA1 cond mask rn) s = .next t ∧ sameHidden s t
      ∧ t.pstate.il = (s.pstate.il || (conditionPassed cond s.pstate && illegal (s.readReg rn))))
    ∧ (∃ t, exec (.msrImmA1 cond mask imm12) s = .next t ∧ sameHidden s t
      ∧ t.pstate.il = (s.pstate.il || (conditionPassed cond s.pstate && illegal (expandImm12 imm12))))
    ∧ ∃ t, exec (.msrRegT1 mask rn) s = .next t ∧ sameHidden s t
      ∧ t.pstate.il = (s.pstate.il || (itPassed s.pstate && illegal (s.readReg rn)))

/-- Above PL0 M[4] reads as 1 (at PL0 it is free: 92 D15, log entry 15), and above PL0 an MSR whose mask includes the c lane and
whose value has bit 4 = 0 leaves M and sets IL, whatever the other bits; at PL0 the write is ignored (40_cpsr_access.md section
2). The premises say that the encodings of the mode table and the current M have M[4] = 1. -/
def Obligations.ExecutionStateBit : Prop :=
  ∀ (s : State) (cond mask : BitVec 4) (r : Reg) (imm12 : BitVec 12),
    configOk s.cfg → bit s.pstate.m 4 = true →
      (conditionPassed cond s.pstate = true →
        (s.pl0 = false → ∃ t, exec (.mrsA1 cond r) s = .next t ∧ bit (t.readReg r) 4 = true)
        ∧ (bit mask 0 = true → bit (s.readReg r) 4 = false → ∃ t, exec (.msrRegA1 cond mask r) s = .next t
          ∧ t.pstate.m = s.pstate.m ∧ t.pstate.il = (if s.pl0 then s.pstate.il else true))
        ∧ (bit mask 0 = true → bit (expandImm12 imm12) 4 = false → ∃ t, exec (.msrImmA1 cond mask imm12) s = .next t
          ∧ t.pstate.m = s.pstate.m ∧ t.pstate.il = (if s.pl0 then s.pstate.il else true)))
      ∧ (itPassed s.pstate = true →
        (s.pl0 = false → ∃ t, exec (.mrsT1 r) s = .next t ∧ bit (t.readReg r) 4 = true)
        ∧ (bit mask 0 = true → bit (s.readReg r) 4 = false → ∃ t, exec (.msrRegT1 mask r) s = .next t
          ∧ t.pstate.m = s.pstate.m ∧ t.pstate.il = (if s.pl0 then s.pstate.il else true)))

/-! MSR -/

/-- MSR (register) completes at every privilege level and writes the lanes its mask selects (40_cpsr_access.md section 2;
lanes and privilege gating are the decisions 92 D14, D15, D16). -/
def Obligations.MsrRegisterWritesLanes : Prop :=
  ∀ (s : State) (cond mask : BitVec 4) (rn : Reg),
    (∃ t, exec (.msrRegA1 cond mask rn) s = .next t ∧ t.pc = s.pc + 4
      ∧ if conditionPassed cond s.pstate then cpsrWritten s t (s.readReg rn) mask else t = s.advance 4)
    ∧ ∃ t, exec (.msrRegT1 mask rn) s = .next t ∧ t.pc = s.pc + 4
      ∧ if itPassed s.pstate then cpsrWritten s t (s.readReg rn) mask else t = s.advance 4

/-- MSR (immediate) completes and writes the same lanes from its constant, the low 8 bits of imm12 rotated right by twice the
upper 4 (40_cpsr_access.md section 2, 30_encoding.md section 3). -/
def Obligations.MsrImmediateWritesLanes : Prop :=
  ∀ (s : State) (cond mask : BitVec 4) (imm12 : BitVec 12),
    ∃ t, exec (.msrImmA1 cond mask imm12) s = .next t ∧ t.pc = s.pc + 4
      ∧ if conditionPassed cond s.pstate then
          cpsrWritten s t (((imm12.setWidth 8).setWidth 32).rotateRight (2 * (imm12.toNat / 256))) mask
        else t = s.advance 4

/-- The frame of MSR: no register, SPSR or byte of memory changes, no free value is drawn, no input but the Security state, which is
the one of the mode entered (log entry 20), and with M unchanged neither the inputs nor the fetch window. -/
def Obligations.MsrFrame : Prop :=
  ∀ (i : Instr) (s t : State), isMsr i = true → exec i s = .next t →
    sameRegs s t ∧ sameOutside s t ∧ t.freeCount = s.freeCount
      ∧ t.inp = { s.inp with security := targetSecurity s.cfg s.inp s.pstate.m t.pstate.m }
      ∧ (t.pstate.m = s.pstate.m → sameInputs s t)

/-- A write of either value to a reserved CPSR bit is ignored and has no other effect (40_cpsr_access.md, last rule of
section 2; 92 D11, D12). -/
def Obligations.MsrIgnoresReservedBits : Prop :=
  ∀ (s : State) (cond mask : BitVec 4) (rn : Reg) (v w : Word),
    (∀ k < 32, reservedBit s.cfg k = false → bit v k = bit w k) →
      (∃ t u, exec (.msrRegA1 cond mask rn) (s.writeReg rn v) = .next t
        ∧ exec (.msrRegA1 cond mask rn) (s.writeReg rn w) = .next u
        ∧ t.pstate = u.pstate ∧ t.inp = u.inp ∧ t.stale = u.stale ∧ t.pc = u.pc)
      ∧ ∃ t u, exec (.msrRegT1 mask rn) (s.writeReg rn v) = .next t
        ∧ exec (.msrRegT1 mask rn) (s.writeReg rn w) = .next u
        ∧ t.pstate = u.pstate ∧ t.inp = u.inp ∧ t.stale = u.stale ∧ t.pc = u.pc

/-- An MSR of all lanes followed by an MRS reads the written value back in every bit that is not reserved, E only where both
byte orders exist: no barrier or distance is needed (70_reset_and_hazards.md section 3). -/
def Obligations.MsrThenMrsReadsBack : Prop :=
  ∀ (s t u : State) (rn rd : Reg), configOk s.cfg → s.pl0 = false →
    illegalModeChange s.cfg s.inp s.pstate.m (field (s.readReg rn) 0 5) = false → bit s.pstate.m 4 = true →
    exec (.msrRegA1 0b1110 0b1111 rn) s = .next t → t.pl0 = false → exec (.mrsA1 0b1110 rd) t = .next u →
      ∀ k < 32, reservedBit s.cfg k = false → (k = 9 → s.cfg.bothEndian = true) →
        bit (u.readReg rd) k = bit (s.readReg rn) k

/-- "The PE ignores writes to PSTATE.M when executing at PL0": in User mode every MSR and every CPS completes, leaves M as it is
and does not set IL (44 R197). A T32 CPS is outside an IT block. -/
def Obligations.UserModeWritesOfModeIgnored : Prop :=
  ∀ (i : Instr) (s : State), (isMsr i = true ∨ isCps i = true) → s.pl0 = true →
    (isT32Unconditional i = true → s.pstate.it = 0) →
      ∃ t, exec i s = .next t ∧ t.pstate.m = s.pstate.m ∧ t.pstate.il = s.pstate.il

/-! CPS -/

/-- CPSIE sets the named masks to 0, CPSID to 1, and each optionally changes the mode, an illegal change setting IL; every other
PSTATE field is as it was. Every form above PL0 completes so (41_cps.md R150, R151). A T32 form is outside an IT block. -/
def Obligations.CpsieAndCpsidWriteMasks : Prop :=
  ∀ (s : State) (fl : IFlags) (mode : Option (BitVec 5)), s.pl0 = false →
    (∃ t, exec (.cpsieA1 fl mode) s = .next t ∧ t.pc = s.pc + 4 ∧ masksWritten s t false fl mode)
    ∧ (∃ t, exec (.cpsidA1 fl mode) s = .next t ∧ t.pc = s.pc + 4 ∧ masksWritten s t true fl mode)
    ∧ (s.pstate.it = 0 →
      (∃ t, exec (.cpsieT2 fl mode) s = .next t ∧ t.pc = s.pc + 4 ∧ masksWritten s t false fl mode)
      ∧ (∃ t, exec (.cpsidT2 fl mode) s = .next t ∧ t.pc = s.pc + 4 ∧ masksWritten s t true fl mode)
      ∧ (∃ t, exec (.cpsieT1 fl) s = .next t ∧ t.pc = s.pc + 2 ∧ masksWritten s t false fl none)
      ∧ ∃ t, exec (.cpsidT1 fl) s = .next t ∧ t.pc = s.pc + 2 ∧ masksWritten s t true fl none)

/-- CPS #mode changes to the specified mode without affecting the masks or any other field, an illegal change setting IL: both
forms above PL0 (41_cps.md R152). The T32 form is outside an IT block. -/
def Obligations.CpsChangesModeOnly : Prop :=
  ∀ (s : State) (mode : BitVec 5), s.pl0 = false →
    (∃ t, exec (.cpsA1 mode) s = .next t ∧ t.pc = s.pc + 4
      ∧ t.pstate = { s.pstate with m := t.pstate.m, il := t.pstate.il } ∧ modeWritten s t mode)
    ∧ (s.pstate.it = 0 → ∃ t, exec (.cpsT2 mode) s = .next t ∧ t.pc = s.pc + 4
      ∧ t.pstate = { s.pstate with m := t.pstate.m, il := t.pstate.il } ∧ modeWritten s t mode)

/-- At PL0 a CPS does nothing but move the pc past itself (92 D15, the spec's decision; 41_cps.md on PL0). -/
def Obligations.CpsAtUserDoesNothing : Prop :=
  ∀ (i : Instr) (s : State), isCps i = true → s.pl0 = true → (isT32Unconditional i = true → s.pstate.it = 0) →
    exec i s = .next (s.advance (size i))

/-- The frame of CPS: no flag, no E, PAN, DIT, SSBS, T, IT, J or UINJ, no register, SPSR or byte of memory changes, no input but the
Security state, which is the one of the mode entered (log entry 20), and with M unchanged neither the inputs nor the fetch
window. -/
def Obligations.CpsFrame : Prop :=
  ∀ (i : Instr) (s t : State), isCps i = true → exec i s = .next t →
    sameFlags s t ∧ sameHidden s t ∧ t.pstate.e = s.pstate.e ∧ t.pstate.pan = s.pstate.pan ∧ t.pstate.dit = s.pstate.dit
      ∧ t.pstate.ssbs = s.pstate.ssbs ∧ sameRegs s t ∧ sameOutside s t ∧ t.freeCount = s.freeCount
      ∧ t.inp = { s.inp with security := targetSecurity s.cfg s.inp s.pstate.m t.pstate.m }
      ∧ (t.pstate.m = s.pstate.m → sameInputs s t)

/-- Inside an IT block the T32 forms of CPS, SETEND and SETPAN are refused, and no other instruction is (92 D26, the spec's
decision). -/
def Obligations.RefusedInsideItBlock : Prop :=
  ∀ (i : Instr) (s : State), exec i s = .refused .insideItBlock ↔ (isT32Unconditional i = true ∧ s.pstate.it ≠ 0)

/-! Changes of mode -/

/-- The changes the source lists as illegal, and only those, for a value other than the current one (44 section 2; a Non-secure
PL1 mode in (3f) is read from SCR.NS, 93 GK14). -/
def Obligations.IllegalChangesAreTheListed : Prop :=
  ∀ (c : Config) (inp : Inputs) (cur new : BitVec 5), new ≠ cur →
    (illegalModeChange c inp cur new = true ↔
      modeOf c new = none
      ∨ ∃ md, modeOf c new = some md
        ∧ (c.modeImplemented.get md = false
          ∨ (elOfCode c cur inp.security).number < (elOfMode c md (targetSecurity c inp cur new)).number
          ∨ (inp.security = .nonSecure ∧ new = modeCode c .monitor)
          ∨ (inp.security = .secure ∧ elOfCode c cur inp.security = .el1 ∧ c.el3UsingAArch64 = true
            ∧ new = modeCode c .monitor)
          ∨ new = modeCode c .hyp ∨ cur = modeCode c .hyp
          ∨ (inp.hcrTGE = true ∧ cur = modeCode c .monitor ∧ inp.scrNS = true ∧ isPL1NonMonitor md = true)))

/-- Hyp mode cannot be entered or left, and Monitor mode cannot be entered from Non-secure state, by any MSR or CPS: the source's
clauses (3b), (3d), (3e) on the machine (60_exceptions.md section 6). -/
def Obligations.HypAndMonitorAreClosed : Prop :=
  ∀ (i : Instr) (s t : State), (isMsr i = true ∨ isCps i = true) → exec i s = .next t →
    (t.pstate.m = modeCode s.cfg .hyp ↔ s.pstate.m = modeCode s.cfg .hyp)
      ∧ (s.inp.security = .nonSecure → t.pstate.m = modeCode s.cfg .monitor → s.pstate.m = modeCode s.cfg .monitor)

/-- An illegal change: M and the current mode are unchanged, IL is set to 1, and every other PSTATE field is written as it is by
the same instruction naming the current mode (44 R194). For CPSIE, CPSID and CPS, and for MSR with the c lane; above PL0. -/
def Obligations.IllegalChangeSetsIL : Prop :=
  ∀ (s : State) (new : BitVec 5), s.pl0 = false → illegalModeChange s.cfg s.inp s.pstate.m new = true →
    (∃ t, exec (.cpsA1 new) s = .next t ∧ t.pstate = { s.pstate with il := true })
    ∧ (s.pstate.it = 0 → ∃ t, exec (.cpsT2 new) s = .next t ∧ t.pstate = { s.pstate with il := true })
    ∧ (∀ fl : IFlags,
      (∃ t u, exec (.cpsieA1 fl (some new)) s = .next t ∧ exec (.cpsieA1 fl (some s.pstate.m)) s = .next u
        ∧ t.pstate = { u.pstate with il := true, m := s.pstate.m })
      ∧ (∃ t u, exec (.cpsidA1 fl (some new)) s = .next t ∧ exec (.cpsidA1 fl (some s.pstate.m)) s = .next u
        ∧ t.pstate = { u.pstate with il := true, m := s.pstate.m })
      ∧ (s.pstate.it = 0 →
        (∃ t u, exec (.cpsieT2 fl (some new)) s = .next t ∧ exec (.cpsieT2 fl (some s.pstate.m)) s = .next u
          ∧ t.pstate = { u.pstate with il := true, m := s.pstate.m })
        ∧ ∃ t u, exec (.cpsidT2 fl (some new)) s = .next t ∧ exec (.cpsidT2 fl (some s.pstate.m)) s = .next u
          ∧ t.pstate = { u.pstate with il := true, m := s.pstate.m }))
    ∧ ∀ (cond mask : BitVec 4) (rn : Reg) (v w : Word), bit mask 0 = true → field v 0 5 = new →
        field w 0 5 = s.pstate.m → (∀ k < 32, 5 ≤ k → bit w k = bit v k) →
        (conditionPassed cond s.pstate = true →
          (∃ t u, exec (.msrRegA1 cond mask rn) (s.writeReg rn v) = .next t
            ∧ exec (.msrRegA1 cond mask rn) (s.writeReg rn w) = .next u
            ∧ t.pstate = { u.pstate with il := true, m := s.pstate.m })
          ∧ ∀ imm12 : BitVec 12, expandImm12 imm12 = v → ∃ t u, exec (.msrImmA1 cond mask imm12) s = .next t
            ∧ exec (.msrRegA1 cond mask rn) (s.writeReg rn w) = .next u
            ∧ t.pstate = { u.pstate with il := true, m := s.pstate.m })
        ∧ (itPassed s.pstate = true → ∃ t u, exec (.msrRegT1 mask rn) (s.writeReg rn v) = .next t
            ∧ exec (.msrRegT1 mask rn) (s.writeReg rn w) = .next u
            ∧ t.pstate = { u.pstate with il := true, m := s.pstate.m })

/-- A write of the value M already holds changes nothing and is legal in every mode (92 D34, the spec's decision). -/
def Obligations.CurrentModeWriteChangesNothing : Prop :=
  ∀ s : State, exec (.cpsA1 s.pstate.m) s = .next (s.advance 4)
    ∧ (s.pstate.it = 0 → exec (.cpsT2 s.pstate.m) s = .next (s.advance 4))

/-- While IL is 1 an attempt to execute any instruction takes the Illegal Execution state exception, and the environment's next
inputs come: no register and no memory is written, the SPSR of the target mode holds all of PSTATE, IL = 1 included, and IL is 0
after it (44 section 3, 60_exceptions.md section 2). The form of the target is the spec's parameter D22 and the model's log entry
18 (PRESUMED). No asynchronous exception is deliverable. -/
def Obligations.IllegalStateTakesException : Prop :=
  ∀ s : State, s.pstate.il = true → s.deliverable = [] →
    let target := exceptionTarget s.cfg s.inp .illegalState s.pstate.m
    let t := (s.takeException .illegalState).nextInputs
    step s = .next t ∧ t.x = s.x ∧ t.mem = s.mem ∧ t.spsr.get target = { s.pstate with j := false }
      ∧ t.pstate.m = modeCode s.cfg target ∧ t.pstate.il = false
      ∧ t.pstate = (s.enterException .illegalState target).pstate

/-! Exceptions -/

/-- What taking an exception to AArch32 state does, as the source states it. To every target mode: PSTATE is preserved in the target
mode's SPSR; M is the target mode, and M[4] stays 1 in a coherent configuration; J stays 0; IT, IL and UINJ are 0; E stays where
there is one byte order. To a PL1 mode T and E are SCTLR.TE and SCTLR.EE, to EL2 HSCTLR.TE and HSCTLR.EE (60_exceptions.md R210
to R214, R216, R217). T and E in Monitor mode, which the source does not name there, and the masks are in
EntryUnstatedFields. -/
def Obligations.EntryStatedFields : Prop :=
  ∀ (s : State) (exc : ExcKind) (target : Mode),
    let t := s.enterException exc target
    t.spsr.get target = { s.pstate with j := false }
      ∧ t.pstate.m = modeCode s.cfg target ∧ (configOk s.cfg → bit t.pstate.m 4 = true)
      ∧ (s.pstate.j = false → t.pstate.j = false)
      ∧ t.pstate.it = 0
      ∧ t.pstate.il = false
      ∧ (s.cfg.haveUINJ = true → t.pstate.uinj = false)
      ∧ (s.cfg.bothEndian = false → t.pstate.e = s.pstate.e)
      ∧ ((isPL1NonMonitor target = true ∨ target = .hyp) →
        t.pstate.t = (if target = .hyp then s.inp.hsctlrTE else s.inp.sctlrTE)
          ∧ (s.cfg.bothEndian = true → t.pstate.e = if target = .hyp then s.inp.hsctlrEE else s.inp.sctlrEE))

/-- The rest of an entry: one or more of A, I, F, those the EntryMask parameter names, are set to 1 and none is cleared
(60_exceptions.md section 1 and 92 D13); the flags, Q, GE, J and DIT are unchanged, PAN and SSBS take their parameters' values,
Monitor mode uses SCTLR, no other SPSR, register or byte of memory changes (92 D23, D35, the spec's decisions; log entries 18,
36). -/
def Obligations.EntryUnstatedFields : Prop :=
  ∀ (s : State) (exc : ExcKind) (target : Mode),
    let t := s.enterException exc target
    let mask := (s.cfg.entryMask.get exc).get target
    t.pstate.a = (s.pstate.a || entrySetsA mask) ∧ t.pstate.i = (s.pstate.i || entrySetsI mask)
      ∧ t.pstate.f = (s.pstate.f || entrySetsF mask)
      ∧ (t.pstate.a = true ∨ t.pstate.i = true ∨ t.pstate.f = true)
      ∧ sameFlags s t ∧ t.pstate.j = s.pstate.j ∧ t.pstate.dit = s.pstate.dit
      ∧ (s.cfg.havePAN = true → t.pstate.pan = applyBitRule (s.cfg.entryPAN.get target) s.pstate.pan)
      ∧ (s.cfg.haveSSBS = true → t.pstate.ssbs = applyBitRule (s.cfg.entrySSBS.get target) s.pstate.ssbs)
      ∧ (target = .monitor → t.pstate.t = s.inp.sctlrTE ∧ (s.cfg.bothEndian = true → t.pstate.e = s.inp.sctlrEE))
      ∧ (∀ md : Mode, md ≠ target → t.spsr.get md = s.spsr.get md)
      ∧ t.x = s.x ∧ (∀ a : Nat, t.mem.read a = s.mem.read a) ∧ t.pending = s.pending

/-- A return right after an entry gives back PSTATE as it was (60_exceptions.md section 4, an inference of the spec), where the
return is to a permitted mode at no higher Exception level; no instruction of the table is a return (log entry 28). -/
def Obligations.ReturnRestoresPstate : Prop :=
  ∀ (s : State) (exc : ExcKind) (target : Mode), Inv s →
    (s.enterException exc target).returnPermitted (savedPState s.pstate) = true →
      ∃ t, (s.enterException exc target).exceptionReturn = .next t ∧ t.pstate = s.pstate ∧ t.x = s.x ∧ t.mem = s.mem

/-- While UINJ is 1 an attempt to execute an instruction takes an Undefined Instruction exception, which clears UINJ (92 D31, the
spec's decision; log entry 23), and the environment's next inputs come: no register and no memory is written, and the SPSR of the
target mode, to which M is set (60_exceptions.md R216), holds all of PSTATE, UINJ = 1 included. The target of Undefined
Instruction is the model's log entry 18 (PRESUMED). IL is 0 and no asynchronous exception is deliverable. -/
def Obligations.UinjTakesUndefinedInstruction : Prop :=
  ∀ s : State, s.cfg.haveUINJ = true → s.pstate.uinj = true → s.pstate.il = false → s.deliverable = [] →
    let target := exceptionTarget s.cfg s.inp .undefinedInstruction s.pstate.m
    let t := (s.takeException .undefinedInstruction).nextInputs
    step s = .next t ∧ t.x = s.x ∧ t.mem = s.mem ∧ t.spsr.get target = { s.pstate with j := false }
      ∧ t.pstate.m = modeCode s.cfg target ∧ t.pstate.uinj = false
      ∧ t.pstate = (s.enterException .undefinedInstruction target).pstate

/-- While a mask bit is 1 its asynchronous exception is not deliverable, and pending it stays pending over every step, whatever
other exception the step takes; with every pending exception masked a step is an attempt to execute (92 D30, the spec's
decision). -/
def Obligations.MaskedExceptionsStayPending : Prop :=
  ∀ s : State,
    (s.pstate.a = true → .serror ∉ s.deliverable
      ∧ ∀ t, step s = .next t → s.pending.serror = true → t.pending.serror = true)
    ∧ (s.pstate.i = true → .irq ∉ s.deliverable ∧ ∀ t, step s = .next t → s.pending.irq = true → t.pending.irq = true)
    ∧ (s.pstate.f = true → .fiq ∉ s.deliverable ∧ ∀ t, step s = .next t → s.pending.fiq = true → t.pending.fiq = true)
    ∧ ((s.pending.serror = true → s.pstate.a = true) → (s.pending.irq = true → s.pstate.i = true) →
      (s.pending.fiq = true → s.pstate.f = true) → s.admission = s.attempt)

/-- What is deliverable is what is pending with its mask bit 0; some draw chooses each deliverable exception, and some draw none;
the exception the draw chooses is the one the step takes, with the entry written out, whether it stays pending being free, and
where it chooses none the step attempts an instruction (92 D30, D36, the spec's decisions; log entries 18, 22). -/
def Obligations.UnmaskedExceptionsMayBeTaken : Prop :=
  ∀ s : State,
    (.serror ∈ s.deliverable ↔ s.pending.serror = true ∧ s.pstate.a = false)
    ∧ (.irq ∈ s.deliverable ↔ s.pending.irq = true ∧ s.pstate.i = false)
    ∧ (.fiq ∈ s.deliverable ↔ s.pending.fiq = true ∧ s.pstate.f = false)
    ∧ .illegalState ∉ s.deliverable ∧ .undefinedInstruction ∉ s.deliverable
    ∧ (∀ exc ∈ s.deliverable, ∃ w, asyncChoice s.deliverable w = some exc)
    ∧ (∃ w, asyncChoice s.deliverable w = none)
    ∧ (s.deliverable ≠ [] → match asyncChoice s.deliverable s.freeWord with
      | some exc => exc ∈ s.deliverable ∧ ∃ t, asyncEntered s exc t ∧ step s = .next t.nextInputs
      | none => s.admission = s.drawn.attempt)

/-! The fetch window -/

/-- A legal change of mode by MSR or CPS that changes the fetch context leaves the old context open, and lengthens an open
window; a fetch uses the current context or an open old one, and the current one when no window is open; an exception entry
that changes the context, or is a Context Synchronization event, leaves none open (20_memory.md section 2; 92 D20, D21). -/
def Obligations.FetchWindow : Prop :=
  (∀ (i : Instr) (s t : State), (isMsr i = true ∨ isCps i = true) → exec i s = .next t →
    (t.context ≠ s.context → s.context ∈ t.stale) ∧ ∀ k ∈ s.stale, k ∈ t.stale)
  ∧ (∀ s : State, s.recordFetch.lastFetch ∈ s.context :: s.stale ∧ (s.stale = [] → s.recordFetch.lastFetch = s.context))
  ∧ ∀ (s : State) (exc : ExcKind) (target : Mode),
      s.cfg.contextSync.exceptionEntry = true ∨ (s.enterException exc target).context ≠ s.context →
        (s.enterException exc target).stale = []

/-! SETEND and SETPAN -/

/-- SETEND BE sets E to 1 and SETEND LE to 0, in every mode, and every other PSTATE field is unchanged (42_setend.md R170,
R171, R172); on an implementation with both byte orders where SETEND is not disabled, a T32 form outside an IT block. -/
def Obligations.SetendSetsE : Prop :=
  ∀ s : State, s.cfg.bothEndian = true → s.cfg.setendDisabled = false →
    (∃ t, exec .setendBeA1 s = .next t ∧ t.pc = s.pc + 4 ∧ t.pstate = { s.pstate with e := true })
    ∧ (∃ t, exec .setendLeA1 s = .next t ∧ t.pc = s.pc + 4 ∧ t.pstate = { s.pstate with e := false })
    ∧ (s.pstate.it = 0 → (∃ t, exec .setendBeT1 s = .next t ∧ t.pc = s.pc + 2 ∧ t.pstate = { s.pstate with e := true })
      ∧ ∃ t, exec .setendLeT1 s = .next t ∧ t.pc = s.pc + 2 ∧ t.pstate = { s.pstate with e := false })

/-- With one byte order a SETEND naming it changes nothing but the pc and one naming the other is refused; disabled, a SETEND
takes an Undefined Instruction exception (92 D10, D28, the spec's decisions; log entry 27). A T32 form is outside an IT block. -/
def Obligations.SetendRestricted : Prop :=
  ∀ s : State,
    (s.cfg.setendDisabled = true → ∀ i : Instr, isSetend i = true → (isT32Unconditional i = true → s.pstate.it = 0) →
      exec i s = .next (s.takeException .undefinedInstruction))
    ∧ (s.cfg.setendDisabled = false → s.cfg.bothEndian = false →
      if s.cfg.onlyEndianness then
        exec .setendBeA1 s = .next (s.advance 4) ∧ exec .setendLeA1 s = .refused .absentByteOrder
          ∧ (s.pstate.it = 0 → exec .setendBeT1 s = .next (s.advance 2) ∧ exec .setendLeT1 s = .refused .absentByteOrder)
      else
        exec .setendLeA1 s = .next (s.advance 4) ∧ exec .setendBeA1 s = .refused .absentByteOrder
          ∧ (s.pstate.it = 0 → exec .setendLeT1 s = .next (s.advance 2) ∧ exec .setendBeT1 s = .refused .absentByteOrder))

/-- SETPAN #0 sets PAN to 0 and SETPAN #1 to 1 above PL0 where FEAT_PAN is implemented, and every other PSTATE field is
unchanged (43_setpan.md R180, R181); a T32 form outside an IT block. -/
def Obligations.SetpanSetsPan : Prop :=
  ∀ s : State, s.cfg.havePAN = true → s.pl0 = false →
    (∃ t, exec .setpan0A1 s = .next t ∧ t.pc = s.pc + 4 ∧ t.pstate = { s.pstate with pan := false })
    ∧ (∃ t, exec .setpan1A1 s = .next t ∧ t.pc = s.pc + 4 ∧ t.pstate = { s.pstate with pan := true })
    ∧ (s.pstate.it = 0 → (∃ t, exec .setpan0T1 s = .next t ∧ t.pc = s.pc + 2 ∧ t.pstate = { s.pstate with pan := false })
      ∧ ∃ t, exec .setpan1T1 s = .next t ∧ t.pc = s.pc + 2 ∧ t.pstate = { s.pstate with pan := true })

/-- At PL0 SETPAN only moves the pc; without FEAT_PAN it takes an Undefined Instruction exception (92 D15, D27, the spec's
decisions). A T32 form is outside an IT block. -/
def Obligations.SetpanRestricted : Prop :=
  ∀ (i : Instr) (s : State), isSetpan i = true → (isT32Unconditional i = true → s.pstate.it = 0) →
    (s.cfg.havePAN = true → s.pl0 = true → exec i s = .next (s.advance (size i)))
      ∧ (s.cfg.havePAN = false → exec i s = .next (s.takeException .undefinedInstruction))

/-- The frame of SETEND and SETPAN where they take no exception: nothing but E, or PAN, and the pc changes. -/
def Obligations.SetendAndSetpanFrame : Prop :=
  ∀ (i : Instr) (s t : State), (isSetend i = true ∨ isSetpan i = true) → exec i s = .next t →
    t = s.takeException .undefinedInstruction
      ∨ (sameRegs s t ∧ sameOutside s t ∧ sameInputs s t ∧ t.freeCount = s.freeCount
        ∧ t.pstate = { s.pstate with e := t.pstate.e, pan := t.pstate.pan }
        ∧ (isSetend i = true → t.pstate.pan = s.pstate.pan) ∧ (isSetpan i = true → t.pstate.e = s.pstate.e))

/-! Memory -/

/-- LDR where its condition passes loads the four bytes at its address into Rt, the lowest address least significant when E is 0
and most significant when E is 1 (20_memory.md section 1; the address as the alignment policy takes it, log entry 25). -/
def Obligations.LdrLoadsInCurrentByteOrder : Prop :=
  ∀ (s : State) (cond : BitVec 4) (up : Bool) (rn rt : Reg) (imm12 : BitVec 12) (a : Word),
    let b := ldrAddress s up rn imm12
    (b.toNat % 4 = 0 ∧ a = b ∨ s.cfg.alignPolicy = .bytewise ∧ a = b
      ∨ s.cfg.alignPolicy = .roundDown ∧ a.toNat = b.toNat - b.toNat % 4) →
    conditionPassed cond s.pstate = true →
      let b0 := (s.mem.read a.toNat).toNat
      let b1 := (s.mem.read (a + 1).toNat).toNat
      let b2 := (s.mem.read (a + 2).toNat).toNat
      let b3 := (s.mem.read (a + 3).toNat).toNat
      ∃ t, exec (.ldrA1 cond up rn rt imm12) s = .next t ∧ t.pc = s.pc + 4
        ∧ (t.readReg rt).toNat =
          if s.pstate.e then b3 + 256 * b2 + 65536 * b1 + 16777216 * b0 else b0 + 256 * b1 + 65536 * b2 + 16777216 * b3

/-- The frame of LDR: PSTATE and every register but Rt are unchanged (no writeback unless Rn is Rt), nothing is stored. -/
def Obligations.LdrFrame : Prop :=
  ∀ (s t : State) (cond : BitVec 4) (up : Bool) (rn rt : Reg) (imm12 : BitVec 12),
    exec (.ldrA1 cond up rn rt imm12) s = .next t →
      t.pstate = s.pstate ∧ sameRegsBut rt s t ∧ sameOutside s t ∧ sameInputs s t ∧ t.freeCount = s.freeCount

/-- LDR stops with a fault exactly where its condition passes, its address is no multiple of 4 and the alignment policy stops
(92 D18, the spec's default; log entry 25), and with no refusal; where its condition does not pass only the pc moves, also at a
misaligned address: the model's choice (log entries 13, DESIGN CHOICE, and 31, PRESUMED). -/
def Obligations.LdrStopsOnlyMisaligned : Prop :=
  ∀ (s : State) (cond : BitVec 4) (up : Bool) (rn rt : Reg) (imm12 : BitVec 12),
    if conditionPassed cond s.pstate then
      if (ldrAddress s up rn imm12).toNat % 4 ≠ 0 ∧ s.cfg.alignPolicy = .stop then
        exec (.ldrA1 cond up rn rt imm12) s = .fault .misalignedAccess
      else ∃ t, exec (.ldrA1 cond up rn rt imm12) s = .next t
    else exec (.ldrA1 cond up rn rt imm12) s = .next (s.advance 4)

/-- A store and a load of the same bytes in the same byte order give the value back, and memory stays in canonical form
(20_memory.md section 1, MemWrite is the inverse of MemRead; 92 D19). -/
def Obligations.LoadAfterStore : Prop :=
  ∀ (s : State) (a : Word) (n : Nat) (v : BitVec (8 * n)), n ≤ 2 ^ 32 → s.mem.wf →
    (s.memWrite a n v).memRead a n = v ∧ (s.memWrite a n v).mem.wf

/-- A store of n bytes leaves every byte outside the n bytes from its address as it was, addresses wrapping (log entry 8). -/
def Obligations.StoreFrame : Prop :=
  ∀ (s : State) (a : Word) (n : Nat) (v : BitVec (8 * n)) (k : Nat), s.mem.wf →
    (∀ j < n, k ≠ (a + BitVec.ofNat 32 j).toNat) → (s.memWrite a n v).mem.read k = s.mem.read k

/-! The step -/

/-- When the bytes at the pc decode to an instruction, a step runs exec of it (60_exceptions.md section 2, Step). IL and UINJ are 0
and no asynchronous exception is deliverable. Three things around exec are the model's choices: the fetch is recorded before it
(log entry 24), inside a T32 IT block IT advances after it by a free value (log entry 14), and then the environment's next inputs
come (log entry 21). -/
def Obligations.StepRunsDecodedInstruction : Prop :=
  ∀ (s : State) (a : Word) (i : Instr) (rest : List Byte), s.deliverable = [] → s.pstate.il = false →
    (s.cfg.haveUINJ && s.pstate.uinj) = false → s.fetchAddress = some a →
    decodeBytes s.pstate.t (s.mem.readBytes a 4) = .ok (i, rest) →
      step s = endOutcome s.recordFetch (exec i s.recordFetch)
      ∧ (∀ t, exec i s.recordFetch = .next t →
        (s.pstate.it = 0 → step s = .next t.nextInputs) ∧ step s = .next (advanceIT s t).nextInputs)
      ∧ (∀ r, exec i s.recordFetch = .fault r → step s = .fault r)
      ∧ (∀ r, exec i s.recordFetch = .refused r → step s = .refused r)
      ∧ (s.stale = [] → s.recordFetch = { s with lastFetch := s.context })

/-- Bytes that are no instruction of the spec stop the step under the decoder's name for the reason (93 U23, U26). -/
def Obligations.StepRefusesUndecodable : Prop :=
  ∀ (s : State) (a : Word) (e : DecodeError), s.deliverable = [] → s.pstate.il = false →
    (s.cfg.haveUINJ && s.pstate.uinj) = false → s.fetchAddress = some a →
    decodeBytes s.pstate.t (s.mem.readBytes a 4) = .error e → step s = .refused (.undecodable e)
end

