-- ==== Sys2Proof/Laws/Bits.lean ====
section
/-! SUPPORT. Laws of fields: what a field of a word shows when the word is an OR of placed fields, and words as bytes. -/

namespace Sys2Proof.Machine

theorem bit_or {n : Nat} (u v : BitVec n) (k : Nat) : bit (u ||| v) k = (bit u k || bit v k) := by simp [bit]

theorem bit_and {n : Nat} (u v : BitVec n) (k : Nat) : bit (u &&& v) k = (bit u k && bit v k) := by simp [bit]

theorem bit_field {n : Nat} (v : BitVec n) (k w j : Nat) : bit (field v k w) j = (decide (j < w) && bit v (k + j)) := by
  simp [bit, field]

theorem bit_place {n w : Nat} (x : BitVec w) (k j : Nat) :
    bit (place n x k) j = (decide (j < n) && decide (k ≤ j) && bit x (j - k)) := by
  simp only [bit, place, BitVec.getLsbD_shiftLeft, BitVec.getLsbD_setWidth]
  by_cases h : k ≤ j
  · by_cases hn : j < n
    · simp [h, hn, Nat.not_lt.2 h, show j - k < n by omega]
    · simp [hn]
  · simp [h, Nat.lt_of_not_le h]

theorem bit_placeBit {n : Nat} (b : Bool) (k j : Nat) :
    bit (placeBit n b k) j = (decide (j < n) && decide (j = k) && b) := by
  rw [placeBit, bit_place]
  by_cases h : j = k
  · simp [h, bit]
  · by_cases h2 : k ≤ j
    · have : j - k ≠ 0 := by omega
      simp [h, bit, this]
    · simp [h, h2]

/-- Two words that agree bit by bit are equal. -/
theorem eq_of_bit {n : Nat} {u v : BitVec n} (h : ∀ k < n, bit u k = bit v k) : u = v :=
  BitVec.eq_of_getLsbD_eq fun k hk => h k hk

theorem field_or {n : Nat} (u v : BitVec n) (k w : Nat) : field (u ||| v) k w = field u k w ||| field v k w :=
  eq_of_bit fun j _ => by simp only [bit_field, bit_or]; cases decide (j < w) <;> simp

/-- A field placed at `k` is read back at `k`. -/
theorem field_place {n w : Nat} (x : BitVec w) (k : Nat) (h : k + w ≤ n) : field (place n x k) k w = x :=
  eq_of_bit fun j hj => by
    simp only [bit_field, bit_place, hj, decide_true, Bool.true_and, Nat.add_sub_cancel_left]
    simp only [Nat.le_add_right, decide_true, Bool.and_true, Bool.and_eq_right_iff_imp, decide_eq_true_eq]
    intros; omega

/-- A field placed elsewhere is not seen. -/
theorem field_place_of_disjoint {n w : Nat} (x : BitVec w) (k k' w' : Nat) (h : k' + w' ≤ k ∨ k + w ≤ k') :
    field (place n x k) k' w' = 0 :=
  eq_of_bit fun j hj => by
    simp only [bit_field, bit_place, hj, decide_true, Bool.true_and]
    by_cases hk : k ≤ k' + j
    · have hb : bit x (k' + j - k) = false := by
        simp only [bit]; exact BitVec.getLsbD_of_ge _ _ (by omega)
      rw [hb]; simp [bit]
    · rw [decide_eq_false hk]; simp [bit]

/-- A placed field is not seen under a mask that is clear where it lies. -/
theorem place_and_eq_zero {n w : Nat} (x : BitVec w) (k : Nat) (m : BitVec n) (h : ∀ j < w, bit m (k + j) = false) :
    place n x k &&& m = 0 :=
  eq_of_bit fun j hj => by
    simp only [bit_and, bit_place, hj, decide_true, Bool.true_and]
    by_cases hk : k ≤ j
    · by_cases hw : j - k < w
      · have := h (j - k) hw
        rw [Nat.add_sub_cancel' hk] at this
        rw [this]; simp [bit]
      · have hb : bit x (j - k) = false := by simp only [bit]; exact BitVec.getLsbD_of_ge _ _ (by omega)
        rw [hb]; simp [bit]
    · rw [decide_eq_false hk]; simp [bit]

theorem placeBit_and_eq_zero {n : Nat} (b : Bool) (k : Nat) (m : BitVec n) (h : bit m k = false) :
    placeBit n b k &&& m = 0 :=
  place_and_eq_zero _ k m fun j hj => by
    obtain rfl : j = 0 := by omega
    exact h

theorem or_mask {n : Nat} (u v m : BitVec n) : (u ||| v) &&& m = (u &&& m) ||| (v &&& m) :=
  eq_of_bit fun j _ => by simp only [bit_and, bit_or]; cases bit u j <;> cases bit v j <;> simp

theorem wordOfBytes_wordBytes (w : Word) :
    wordOfBytes (field w 0 8) (field w 8 8) (field w 16 8) (field w 24 8) = w :=
  eq_of_bit fun j hj => by
    simp only [wordOfBytes, bit_or, bit_place, bit_field, hj, decide_true, Bool.true_and]
    interval_cases j <;> simp

theorem halfOfBytes_halfBytes (h : Half) : halfOfBytes (field h 0 8) (field h 8 8) = h :=
  eq_of_bit fun j hj => by
    simp only [halfOfBytes, bit_or, bit_place, bit_field, hj, decide_true, Bool.true_and]
    interval_cases j <;> simp

theorem wordBytes_wordOfBytes (b0 b1 b2 b3 : Byte) : wordBytes (wordOfBytes b0 b1 b2 b3) = [b0, b1, b2, b3] := by
  simp only [wordBytes, wordOfBytes, field_or]
  rw [field_place b0 0 (by omega), field_place b1 8 (by omega), field_place b2 16 (by omega), field_place b3 24 (by omega)]
  simp only [field_place_of_disjoint b0 0 8 8 (by omega), field_place_of_disjoint b0 0 16 8 (by omega),
    field_place_of_disjoint b0 0 24 8 (by omega), field_place_of_disjoint b1 8 0 8 (by omega),
    field_place_of_disjoint b1 8 16 8 (by omega), field_place_of_disjoint b1 8 24 8 (by omega),
    field_place_of_disjoint b2 16 0 8 (by omega), field_place_of_disjoint b2 16 8 8 (by omega),
    field_place_of_disjoint b2 16 24 8 (by omega), field_place_of_disjoint b3 24 0 8 (by omega),
    field_place_of_disjoint b3 24 8 8 (by omega), field_place_of_disjoint b3 24 16 8 (by omega)]
  simp

theorem halfBytes_halfOfBytes (b0 b1 : Byte) : halfBytes (halfOfBytes b0 b1) = [b0, b1] := by
  simp only [halfBytes, halfOfBytes, field_or]
  rw [field_place b0 0 (by omega), field_place b1 8 (by omega)]
  simp only [field_place_of_disjoint b0 0 8 8 (by omega), field_place_of_disjoint b1 8 0 8 (by omega)]
  simp

@[simp] theorem length_bytesOfNat (k v : Nat) : (bytesOfNat k v).length = k := by
  induction k generalizing v with
  | zero => rfl
  | succ k ih => simp [bytesOfNat, ih]

/-- Digits and their number: the low `k` bytes of `v` spell `v` modulo 256^k. -/
theorem natOfBytes_bytesOfNat (k v : Nat) : natOfBytes (bytesOfNat k v) = v % 256 ^ k := by
  induction k generalizing v with
  | zero => simp [bytesOfNat, natOfBytes, Nat.mod_one]
  | succ k ih =>
    have h : 256 ^ (k + 1) = 256 * 256 ^ k := Nat.pow_succ'
    rw [bytesOfNat, natOfBytes, ih, BitVec.toNat_ofNat, h, Nat.mod_mul]

/-- A bit the mask selects is the bit of the masked word. -/
theorem bit_of_and_eq {n : Nat} {w m v : BitVec n} (h : w &&& m = v) (k : Nat) (hk : bit m k = true) : bit w k = bit v k := by
  rw [← h, bit_and, hk, Bool.and_true]

end Sys2Proof.Machine
end

