-- ==== Sys2Proof/Laws/Memory.lean ====
section
/-! SUPPORT. The laws of memory: a read after a write, other addresses, and the canonical form kept by every operation. -/

namespace Sys2Proof.Machine

/-- Below every listed address memory reads as unlisted. -/
theorem Memory.read_eq_unlisted (m : Memory) (k : Nat) (h : ∀ p ∈ m, k < p.1) : m.read k = Memory.unlisted := by
  induction m with
  | nil => rfl
  | cons c m ih =>
    simp only [List.mem_cons, forall_eq_or_imp] at h
    rw [Memory.read, if_neg (by omega), ih h.2]

theorem Memory.wf_tail {c : Host.Cell} {m : Memory} (h : Memory.wf (c :: m)) : Memory.wf m :=
  ⟨(List.pairwise_cons.1 h.1).2, fun d hd => h.2 d (List.mem_cons_of_mem _ hd)⟩

theorem Memory.read_write_same (m : Memory) (k : Nat) (v : Byte) (hm : m.wf) : (m.write k v).read k = v := by
  induction m with
  | nil => unfold Memory.write; split <;> simp_all [Memory.read]
  | cons c m ih =>
    obtain ⟨a, b⟩ := c
    have hlt : ∀ p ∈ m, a < p.1 := (List.pairwise_cons.1 hm.1).1
    have hu : k ≤ a → Memory.read m k = Memory.unlisted := fun hk =>
      Memory.read_eq_unlisted m k fun p hp => by have := hlt p hp; omega
    simp only [Memory.write]
    split
    · split
      · rename_i h1 h2
        rw [Memory.read, if_neg (by omega), hu (by omega), h2]
      · simp [Memory.read]
    · split
      · split
        · rename_i h2 h3
          rw [hu (by omega), h3]
        · simp [Memory.read]
      · rename_i h1 h2
        rw [Memory.read, if_neg h2, ih (Memory.wf_tail hm)]

theorem Memory.read_write_other (m : Memory) (k j : Nat) (v : Byte) (hm : m.wf) (h : j ≠ k) :
    (m.write k v).read j = m.read j := by
  induction m with
  | nil => unfold Memory.write; split <;> simp_all [Memory.read]
  | cons c m ih =>
    obtain ⟨a, b⟩ := c
    have hlt : ∀ p ∈ m, a < p.1 := (List.pairwise_cons.1 hm.1).1
    simp only [Memory.write]
    split
    · split <;> simp [Memory.read, h]
    · split
      · rename_i h1 h2
        split
        · rw [Memory.read, if_neg (by omega)]
        · simp only [Memory.read]
          rw [if_neg h, if_neg (by omega)]
      · simp only [Memory.read, ih (Memory.wf_tail hm)]

/-- The addresses a write lists. -/
theorem Memory.mem_write {m : Memory} {k : Nat} {v : Byte} {p : Host.Cell} (h : p ∈ m.write k v) :
    p ∈ m ∨ (p = (k, v) ∧ v ≠ Memory.unlisted) := by
  induction m with
  | nil =>
    unfold Memory.write at h
    split at h <;> simp_all
  | cons c m ih =>
    obtain ⟨a, b⟩ := c
    simp only [Memory.write] at h
    split at h
    · split at h <;> simp_all <;> tauto
    · split at h
      · split at h <;> simp_all <;> tauto
      · simp only [List.mem_cons] at h ⊢
        rcases h with h | h
        · exact .inl (.inl h)
        · exact (ih h).imp .inr id

theorem Memory.write_wf (m : Memory) (k : Nat) (v : Byte) (hm : m.wf) (hk : k < 2 ^ 32) : (m.write k v).wf := by
  refine ⟨?_, fun p hp => ?_⟩
  · induction m with
    | nil => unfold Memory.write; split <;> simp
    | cons c m ih =>
      obtain ⟨a, b⟩ := c
      have hlt := List.pairwise_cons.1 hm.1
      simp only [Memory.write]
      split
      · split
        · exact hm.1
        · refine List.pairwise_cons.2 ⟨fun p hp => ?_, hm.1⟩
          rcases List.mem_cons.1 hp with rfl | hp
          · assumption
          · have := hlt.1 p hp; simp at this ⊢; omega
      · split
        · split
          · exact hlt.2
          · subst_vars; exact List.pairwise_cons.2 ⟨hlt.1, hlt.2⟩
        · refine List.pairwise_cons.2 ⟨fun p hp => ?_, ih (Memory.wf_tail hm)⟩
          rcases Memory.mem_write hp with hp | ⟨rfl, -⟩
          · exact hlt.1 p hp
          · simp; omega
  · rcases Memory.mem_write hp with hp | ⟨rfl, hv⟩
    · exact hm.2 p hp
    · exact ⟨hk, hv⟩

theorem Memory.writeBytes_wf (m : Memory) (a : Word) (bs : List Byte) (hm : m.wf) : (m.writeBytes a bs).wf := by
  induction bs generalizing m a with
  | nil => exact hm
  | cons b bs ih => exact ih _ _ (Memory.write_wf m _ b hm a.isLt)

/-- Reading every address the same, canonical memories are the same data. -/
theorem Memory.ext {m m' : Memory} (hm : m.wf) (hm' : m'.wf) (h : ∀ k, m.read k = m'.read k) : m = m' := by
  induction m generalizing m' with
  | nil =>
    cases m' with
    | nil => rfl
    | cons c m' =>
      exfalso
      have h1 := h c.1
      rw [Memory.read] at h1
      simp only [Memory.read, if_true] at h1
      exact (hm'.2 c (by simp)).2 h1.symm
  | cons c m ih =>
    have hlt := (List.pairwise_cons.1 hm.1).1
    have hne := (hm.2 c (by simp)).2
    cases m' with
    | nil =>
      exfalso
      have h1 := h c.1
      simp only [Memory.read, if_true] at h1
      exact hne h1
    | cons d m' =>
      have hlt' := (List.pairwise_cons.1 hm'.1).1
      have hne' := (hm'.2 d (by simp)).2
      have hcd : c.1 = d.1 := by
        rcases Nat.lt_trichotomy c.1 d.1 with hc | hc | hc
        · have h1 := h c.1
          rw [Memory.read_eq_unlisted (d :: m') c.1 (by
            intro p hp
            rcases List.mem_cons.1 hp with rfl | hp
            · exact hc
            · have := hlt' p hp; omega)] at h1
          simp only [Memory.read, if_true] at h1
          exact absurd h1 hne
        · exact hc
        · have h1 := h d.1
          rw [Memory.read_eq_unlisted (c :: m) d.1 (by
            intro p hp
            rcases List.mem_cons.1 hp with rfl | hp
            · exact hc
            · have := hlt p hp; omega)] at h1
          simp only [Memory.read, if_true] at h1
          exact absurd h1.symm hne'
      have hv : c.2 = d.2 := by
        have h1 := h c.1
        simp only [Memory.read, if_true] at h1
        rw [if_pos hcd] at h1
        exact h1
      have htail : ∀ k, Memory.read m k = Memory.read m' k := by
        intro k
        by_cases hk : k = c.1
        · subst hk
          rw [Memory.read_eq_unlisted m c.1 hlt, Memory.read_eq_unlisted m' c.1 (by rw [hcd]; exact hlt')]
        · have h1 := h k
          simp only [Memory.read] at h1
          rwa [if_neg hk, if_neg (by omega)] at h1
      rw [Prod.ext hcd hv, ih (Memory.wf_tail hm) (Memory.wf_tail hm') htail]

@[simp] theorem Memory.length_readBytes (m : Memory) (a : Word) (k : Nat) : (m.readBytes a k).length = k := by
  induction k generalizing a with
  | zero => rfl
  | succ k ih => simp [Memory.readBytes, ih]

end Sys2Proof.Machine
end

