-- ==== Sys2Proof/Laws/Modes.lean ====
section
/-! SUPPORT. Laws of modes and of the write of PSTATE.M. -/

namespace Sys2Proof.Machine

open Sys2Proof.Safety

theorem mem_allModes (md : Mode) : md ∈ allModes := by cases md <;> decide

theorem mem_allExceptions (exc : ExcKind) : exc ∈ allExceptions := by cases exc <;> decide

/-- The value of M that names a mode is its encoding. -/
theorem modeCode_of_modeOf {c : Config} {m : BitVec 5} {md : Mode} (h : modeOf c m = some md) : modeCode c md = m := by
  have := List.find?_some h
  simpa using this

/-- In a coherent configuration a mode's encoding names it. -/
theorem modeOf_modeCode {c : Config} (h : configOk c) (md : Mode) : modeOf c (modeCode c md) = some md := by
  have hnd : ∀ a b : Mode, modeCode c a = modeCode c b → a = b := fun a b hab =>
    List.inj_on_of_nodup_map h.1 (mem_allModes a) (mem_allModes b) hab
  cases hm : modeOf c (modeCode c md) with
  | none =>
    have := List.find?_eq_none.1 hm md (mem_allModes md)
    simp at this
  | some md' => rw [hnd _ _ (modeCode_of_modeOf hm)]

/-- A permitted value of M names an implemented mode. -/
theorem permittedMode_iff {c : Config} {m : BitVec 5} :
    permittedMode c m = true ↔ ∃ md, modeOf c m = some md ∧ c.modeImplemented.get md = true := by
  unfold permittedMode
  cases modeOf c m <;> simp

/-- In a coherent configuration a value of M that names a mode has M[4] = 1. -/
theorem bit4_of_modeOf {c : Config} (h : configOk c) {m : BitVec 5} {md : Mode} (hm : modeOf c m = some md) :
    bit m 4 = true := by
  rw [← modeCode_of_modeOf hm]
  exact h.2.1 md (mem_allModes md)

@[simp] theorem illegalModeChange_self (c : Config) (inp : Inputs) (m : BitVec 5) : illegalModeChange c inp m m = false := by
  simp [illegalModeChange, illegalClauses]

/-- A change is illegal when some clause applies. -/
theorem illegalModeChange_iff {c : Config} {inp : Inputs} {cur new : BitVec 5} (h : new ≠ cur) :
    illegalModeChange c inp cur new = true ↔ ∃ k, clauseApplies c inp cur new k = true := by
  have hall : ∀ k : IllegalClause, k ∈ allClauses := by intro k; cases k <;> decide
  simp only [illegalModeChange, illegalClauses, if_neg h, Bool.not_eq_true', List.isEmpty_eq_false_iff, ne_eq,
    List.filter_eq_nil_iff]
  push Not
  exact ⟨fun ⟨k, _, hk⟩ => ⟨k, hk⟩, fun ⟨k, hk⟩ => ⟨k, hall k, hk⟩⟩

/-- No clause applies to a legal change. -/
theorem clause_of_legal {c : Config} {inp : Inputs} {cur new : BitVec 5} (hl : illegalModeChange c inp cur new = false)
    (h : new ≠ cur) (k : IllegalClause) : clauseApplies c inp cur new k = false := by
  cases hk : clauseApplies c inp cur new k with
  | false => rfl
  | true => rw [(illegalModeChange_iff h).2 ⟨k, hk⟩] at hl; cases hl

/-- A legal change is to a permitted mode. -/
theorem permitted_of_legal {c : Config} {inp : Inputs} {cur new : BitVec 5} (hl : illegalModeChange c inp cur new = false)
    (h : new ≠ cur) : permittedMode c new = true := by
  have h1 := clause_of_legal hl h .notInTable
  have h2 := clause_of_legal hl h .notImplemented
  simp only [clauseApplies] at h1 h2
  unfold permittedMode
  cases hm : modeOf c new with
  | none => simp [hm] at h1
  | some md => simpa [hm] using h2

/-- What a write of M does: an illegal one sets IL, a legal one writes M; nothing else of PSTATE changes. -/
theorem State.writeMode_cases (s : State) (new : BitVec 5) :
    (illegalModeChange s.cfg s.inp s.pstate.m new = true ∧ s.writeMode new = s.setIL)
      ∨ (illegalModeChange s.cfg s.inp s.pstate.m new = false ∧ s.writeMode new = s.changeMode new) := by
  unfold State.writeMode
  cases illegalModeChange s.cfg s.inp s.pstate.m new <;> simp

theorem State.writeMode_pstate (s : State) (new : BitVec 5) :
    (s.writeMode new).pstate =
      if illegalModeChange s.cfg s.inp s.pstate.m new then { s.pstate with il := true } else { s.pstate with m := new } := by
  unfold State.writeMode
  split <;> rfl

/-- A write of the current value of M changes nothing. -/
theorem State.writeMode_self (s : State) : s.writeMode s.pstate.m = s := by
  have hi : ({ s.inp with security := targetSecurity s.cfg s.inp s.pstate.m s.pstate.m } : Inputs) = s.inp := by
    have : targetSecurity s.cfg s.inp s.pstate.m s.pstate.m = s.inp.security := by
      unfold targetSecurity; rw [if_neg]; tauto
    rw [this]
  unfold State.writeMode
  simp only [illegalModeChange_self, Bool.false_eq_true, if_false, State.changeMode, hi, State.context, true_or, if_true]

/-- A write of M that leaves it leaves the inputs and the fetch window. -/
theorem State.writeMode_same {s : State} {new : BitVec 5} (h : (s.writeMode new).pstate.m = s.pstate.m) :
    (s.writeMode new).inp = s.inp ∧ (s.writeMode new).stale = s.stale := by
  rcases s.writeMode_cases new with ⟨-, he⟩ | ⟨-, he⟩
  · rw [he]; exact ⟨rfl, rfl⟩
  · rw [he] at h
    obtain rfl : new = s.pstate.m := h
    rw [s.writeMode_self]; exact ⟨rfl, rfl⟩

/-- The open contexts after a legal change: the old context joins them where the change is one of context. -/
theorem State.changeMode_stale (s : State) (new : BitVec 5) :
    (s.changeMode new).stale =
      if (s.changeMode new).context = s.context ∨ s.context ∈ s.stale then s.stale else s.context :: s.stale := rfl

/-- A write of M that changes the fetch context leaves the old one open, and lengthens an open window. -/
theorem State.writeMode_stale (s : State) (new : BitVec 5) :
    ((s.writeMode new).context ≠ s.context → s.context ∈ (s.writeMode new).stale)
      ∧ ∀ k ∈ s.stale, k ∈ (s.writeMode new).stale := by
  rcases s.writeMode_cases new with ⟨-, he⟩ | ⟨-, he⟩
  · rw [he]
    exact ⟨fun h => absurd rfl h, fun k hk => hk⟩
  · rw [he, State.changeMode_stale]
    by_cases hc : (s.changeMode new).context = s.context ∨ s.context ∈ s.stale
    · rw [if_pos hc]
      exact ⟨fun h => hc.resolve_left h, fun k hk => hk⟩
    · rw [if_neg hc]
      exact ⟨fun _ => List.mem_cons_self, fun k hk => List.mem_cons_of_mem _ hk⟩

end Sys2Proof.Machine
end

