-- ==== Sys2Proof/Laws/State.lean ====
section
/-! SUPPORT. One lemma per field per update of the state, so that no later proof unfolds a record update. -/

namespace Sys2Proof.Machine

/-! One value for each mode -/

@[simp] theorem PerMode.get_set_same {α : Type} (p : PerMode α) (m : Mode) (v : α) : (p.set m v).get m = v := by
  cases m <;> rfl

theorem PerMode.get_set_other {α : Type} (p : PerMode α) {m m' : Mode} (v : α) (h : m' ≠ m) : (p.set m v).get m' = p.get m' := by
  cases m <;> cases m' <;> first | rfl | exact absurd rfl h

@[simp] theorem PerMode.get_map {α β : Type} (f : α → β) (p : PerMode α) (m : Mode) : (p.map f).get m = f (p.get m) := by
  cases m <;> rfl

variable (s : State)

/-! writeReg -/

@[simp] theorem State.writeReg_cfg (r : Reg) (v : Word) : (s.writeReg r v).cfg = s.cfg := rfl
@[simp] theorem State.writeReg_pstate (r : Reg) (v : Word) : (s.writeReg r v).pstate = s.pstate := rfl
@[simp] theorem State.writeReg_spsr (r : Reg) (v : Word) : (s.writeReg r v).spsr = s.spsr := rfl
@[simp] theorem State.writeReg_x (r : Reg) (v : Word) : (s.writeReg r v).x = s.x.set r v := rfl
@[simp] theorem State.writeReg_pc (r : Reg) (v : Word) : (s.writeReg r v).pc = s.pc := rfl
@[simp] theorem State.writeReg_mem (r : Reg) (v : Word) : (s.writeReg r v).mem = s.mem := rfl
@[simp] theorem State.writeReg_inp (r : Reg) (v : Word) : (s.writeReg r v).inp = s.inp := rfl
@[simp] theorem State.writeReg_env (r : Reg) (v : Word) : (s.writeReg r v).env = s.env := rfl
@[simp] theorem State.writeReg_pending (r : Reg) (v : Word) : (s.writeReg r v).pending = s.pending := rfl
@[simp] theorem State.writeReg_stale (r : Reg) (v : Word) : (s.writeReg r v).stale = s.stale := rfl
@[simp] theorem State.writeReg_lastFetch (r : Reg) (v : Word) : (s.writeReg r v).lastFetch = s.lastFetch := rfl
@[simp] theorem State.writeReg_freeCount (r : Reg) (v : Word) : (s.writeReg r v).freeCount = s.freeCount := rfl

/-! advance -/

@[simp] theorem State.advance_cfg (n : Nat) : (s.advance n).cfg = s.cfg := rfl
@[simp] theorem State.advance_pstate (n : Nat) : (s.advance n).pstate = s.pstate := rfl
@[simp] theorem State.advance_spsr (n : Nat) : (s.advance n).spsr = s.spsr := rfl
@[simp] theorem State.advance_x (n : Nat) : (s.advance n).x = s.x := rfl
@[simp] theorem State.advance_pc (n : Nat) : (s.advance n).pc = s.pc + BitVec.ofNat 32 n := rfl
@[simp] theorem State.advance_mem (n : Nat) : (s.advance n).mem = s.mem := rfl
@[simp] theorem State.advance_inp (n : Nat) : (s.advance n).inp = s.inp := rfl
@[simp] theorem State.advance_env (n : Nat) : (s.advance n).env = s.env := rfl
@[simp] theorem State.advance_pending (n : Nat) : (s.advance n).pending = s.pending := rfl
@[simp] theorem State.advance_stale (n : Nat) : (s.advance n).stale = s.stale := rfl
@[simp] theorem State.advance_lastFetch (n : Nat) : (s.advance n).lastFetch = s.lastFetch := rfl
@[simp] theorem State.advance_freeCount (n : Nat) : (s.advance n).freeCount = s.freeCount := rfl

/-! drawn -/

@[simp] theorem State.drawn_cfg : (s.drawn).cfg = s.cfg := rfl
@[simp] theorem State.drawn_pstate : (s.drawn).pstate = s.pstate := rfl
@[simp] theorem State.drawn_spsr : (s.drawn).spsr = s.spsr := rfl
@[simp] theorem State.drawn_x : (s.drawn).x = s.x := rfl
@[simp] theorem State.drawn_pc : (s.drawn).pc = s.pc := rfl
@[simp] theorem State.drawn_mem : (s.drawn).mem = s.mem := rfl
@[simp] theorem State.drawn_inp : (s.drawn).inp = s.inp := rfl
@[simp] theorem State.drawn_env : (s.drawn).env = s.env := rfl
@[simp] theorem State.drawn_pending : (s.drawn).pending = s.pending := rfl
@[simp] theorem State.drawn_stale : (s.drawn).stale = s.stale := rfl
@[simp] theorem State.drawn_lastFetch : (s.drawn).lastFetch = s.lastFetch := rfl
@[simp] theorem State.drawn_freeCount : (s.drawn).freeCount = s.freeCount + 1 := rfl

/-! setIL -/

@[simp] theorem State.setIL_cfg : (s.setIL).cfg = s.cfg := rfl
@[simp] theorem State.setIL_pstate : (s.setIL).pstate = { s.pstate with il := true } := rfl
@[simp] theorem State.setIL_spsr : (s.setIL).spsr = s.spsr := rfl
@[simp] theorem State.setIL_x : (s.setIL).x = s.x := rfl
@[simp] theorem State.setIL_pc : (s.setIL).pc = s.pc := rfl
@[simp] theorem State.setIL_mem : (s.setIL).mem = s.mem := rfl
@[simp] theorem State.setIL_inp : (s.setIL).inp = s.inp := rfl
@[simp] theorem State.setIL_env : (s.setIL).env = s.env := rfl
@[simp] theorem State.setIL_pending : (s.setIL).pending = s.pending := rfl
@[simp] theorem State.setIL_stale : (s.setIL).stale = s.stale := rfl
@[simp] theorem State.setIL_lastFetch : (s.setIL).lastFetch = s.lastFetch := rfl
@[simp] theorem State.setIL_freeCount : (s.setIL).freeCount = s.freeCount := rfl

/-! setE -/

@[simp] theorem State.setE_cfg (e : Bool) : (s.setE e).cfg = s.cfg := rfl
@[simp] theorem State.setE_pstate (e : Bool) : (s.setE e).pstate = { s.pstate with e := if s.cfg.bothEndian then e else s.pstate.e } := rfl
@[simp] theorem State.setE_spsr (e : Bool) : (s.setE e).spsr = s.spsr := rfl
@[simp] theorem State.setE_x (e : Bool) : (s.setE e).x = s.x := rfl
@[simp] theorem State.setE_pc (e : Bool) : (s.setE e).pc = s.pc := rfl
@[simp] theorem State.setE_mem (e : Bool) : (s.setE e).mem = s.mem := rfl
@[simp] theorem State.setE_inp (e : Bool) : (s.setE e).inp = s.inp := rfl
@[simp] theorem State.setE_env (e : Bool) : (s.setE e).env = s.env := rfl
@[simp] theorem State.setE_pending (e : Bool) : (s.setE e).pending = s.pending := rfl
@[simp] theorem State.setE_stale (e : Bool) : (s.setE e).stale = s.stale := rfl
@[simp] theorem State.setE_lastFetch (e : Bool) : (s.setE e).lastFetch = s.lastFetch := rfl
@[simp] theorem State.setE_freeCount (e : Bool) : (s.setE e).freeCount = s.freeCount := rfl

/-! memWrite -/

@[simp] theorem State.memWrite_cfg (a : Word) (n : Nat) (v : BitVec (8 * n)) : (s.memWrite a n v).cfg = s.cfg := rfl
@[simp] theorem State.memWrite_pstate (a : Word) (n : Nat) (v : BitVec (8 * n)) : (s.memWrite a n v).pstate = s.pstate := rfl
@[simp] theorem State.memWrite_spsr (a : Word) (n : Nat) (v : BitVec (8 * n)) : (s.memWrite a n v).spsr = s.spsr := rfl
@[simp] theorem State.memWrite_x (a : Word) (n : Nat) (v : BitVec (8 * n)) : (s.memWrite a n v).x = s.x := rfl
@[simp] theorem State.memWrite_pc (a : Word) (n : Nat) (v : BitVec (8 * n)) : (s.memWrite a n v).pc = s.pc := rfl
@[simp] theorem State.memWrite_mem (a : Word) (n : Nat) (v : BitVec (8 * n)) : (s.memWrite a n v).mem = s.mem.writeBytes a (bytesOfValue s.pstate.e n v.toNat) := rfl
@[simp] theorem State.memWrite_inp (a : Word) (n : Nat) (v : BitVec (8 * n)) : (s.memWrite a n v).inp = s.inp := rfl
@[simp] theorem State.memWrite_env (a : Word) (n : Nat) (v : BitVec (8 * n)) : (s.memWrite a n v).env = s.env := rfl
@[simp] theorem State.memWrite_pending (a : Word) (n : Nat) (v : BitVec (8 * n)) : (s.memWrite a n v).pending = s.pending := rfl
@[simp] theorem State.memWrite_stale (a : Word) (n : Nat) (v : BitVec (8 * n)) : (s.memWrite a n v).stale = s.stale := rfl
@[simp] theorem State.memWrite_lastFetch (a : Word) (n : Nat) (v : BitVec (8 * n)) : (s.memWrite a n v).lastFetch = s.lastFetch := rfl
@[simp] theorem State.memWrite_freeCount (a : Word) (n : Nat) (v : BitVec (8 * n)) : (s.memWrite a n v).freeCount = s.freeCount := rfl

/-! changeMode -/

@[simp] theorem State.changeMode_cfg (m : BitVec 5) : (s.changeMode m).cfg = s.cfg := rfl
@[simp] theorem State.changeMode_pstate (m : BitVec 5) : (s.changeMode m).pstate = { s.pstate with m := m } := rfl
@[simp] theorem State.changeMode_spsr (m : BitVec 5) : (s.changeMode m).spsr = s.spsr := rfl
@[simp] theorem State.changeMode_x (m : BitVec 5) : (s.changeMode m).x = s.x := rfl
@[simp] theorem State.changeMode_pc (m : BitVec 5) : (s.changeMode m).pc = s.pc := rfl
@[simp] theorem State.changeMode_mem (m : BitVec 5) : (s.changeMode m).mem = s.mem := rfl
@[simp] theorem State.changeMode_inp (m : BitVec 5) : (s.changeMode m).inp = { s.inp with security := targetSecurity s.cfg s.inp s.pstate.m m } := rfl
@[simp] theorem State.changeMode_env (m : BitVec 5) : (s.changeMode m).env = s.env := rfl
@[simp] theorem State.changeMode_pending (m : BitVec 5) : (s.changeMode m).pending = s.pending := rfl
@[simp] theorem State.changeMode_lastFetch (m : BitVec 5) : (s.changeMode m).lastFetch = s.lastFetch := rfl
@[simp] theorem State.changeMode_freeCount (m : BitVec 5) : (s.changeMode m).freeCount = s.freeCount := rfl

/-! enterException -/

@[simp] theorem State.enterException_cfg (exc : ExcKind) (target : Mode) : (s.enterException exc target).cfg = s.cfg := rfl
@[simp] theorem State.enterException_pstate (exc : ExcKind) (target : Mode) : (s.enterException exc target).pstate = entryPState s.cfg s.inp exc target s.pstate := rfl
@[simp] theorem State.enterException_spsr (exc : ExcKind) (target : Mode) : (s.enterException exc target).spsr = s.spsr.set target (savedPState s.pstate) := rfl
@[simp] theorem State.enterException_x (exc : ExcKind) (target : Mode) : (s.enterException exc target).x = s.x := rfl
@[simp] theorem State.enterException_pc (exc : ExcKind) (target : Mode) : (s.enterException exc target).pc = s.freeWord := rfl
@[simp] theorem State.enterException_mem (exc : ExcKind) (target : Mode) : (s.enterException exc target).mem = s.mem := rfl
@[simp] theorem State.enterException_inp (exc : ExcKind) (target : Mode) : (s.enterException exc target).inp = entryInputs s.inp target := rfl
@[simp] theorem State.enterException_env (exc : ExcKind) (target : Mode) : (s.enterException exc target).env = s.env := rfl
@[simp] theorem State.enterException_pending (exc : ExcKind) (target : Mode) : (s.enterException exc target).pending = s.pending := rfl
@[simp] theorem State.enterException_lastFetch (exc : ExcKind) (target : Mode) : (s.enterException exc target).lastFetch = s.lastFetch := rfl
@[simp] theorem State.enterException_freeCount (exc : ExcKind) (target : Mode) : (s.enterException exc target).freeCount = s.freeCount + 1 := rfl

/-! placeInstr -/

@[simp] theorem State.placeInstr_cfg (t : Bool) (bs : List Byte) : (s.placeInstr t bs).cfg = s.cfg := rfl
@[simp] theorem State.placeInstr_pstate (t : Bool) (bs : List Byte) : (s.placeInstr t bs).pstate = { s.pstate with t := t, il := false, uinj := false } := rfl
@[simp] theorem State.placeInstr_spsr (t : Bool) (bs : List Byte) : (s.placeInstr t bs).spsr = s.spsr := rfl
@[simp] theorem State.placeInstr_x (t : Bool) (bs : List Byte) : (s.placeInstr t bs).x = s.x := rfl
@[simp] theorem State.placeInstr_pc (t : Bool) (bs : List Byte) : (s.placeInstr t bs).pc = s.pc := rfl
@[simp] theorem State.placeInstr_inp (t : Bool) (bs : List Byte) : (s.placeInstr t bs).inp = s.inp := rfl
@[simp] theorem State.placeInstr_env (t : Bool) (bs : List Byte) : (s.placeInstr t bs).env = s.env := rfl
@[simp] theorem State.placeInstr_pending (t : Bool) (bs : List Byte) : (s.placeInstr t bs).pending = AsyncSet.none := rfl
@[simp] theorem State.placeInstr_stale (t : Bool) (bs : List Byte) : (s.placeInstr t bs).stale = s.stale := rfl
@[simp] theorem State.placeInstr_lastFetch (t : Bool) (bs : List Byte) : (s.placeInstr t bs).lastFetch = s.lastFetch := rfl
@[simp] theorem State.placeInstr_freeCount (t : Bool) (bs : List Byte) : (s.placeInstr t bs).freeCount = s.freeCount := rfl

/-! Updates with a condition: the fields they leave alone. -/

@[simp] theorem State.readCpsrInto_cfg (r : Reg) : (s.readCpsrInto r).cfg = s.cfg := by
  unfold State.readCpsrInto; split <;> rfl
@[simp] theorem State.readCpsrInto_pstate (r : Reg) : (s.readCpsrInto r).pstate = s.pstate := by
  unfold State.readCpsrInto; split <;> rfl
@[simp] theorem State.readCpsrInto_spsr (r : Reg) : (s.readCpsrInto r).spsr = s.spsr := by
  unfold State.readCpsrInto; split <;> rfl
@[simp] theorem State.readCpsrInto_pc (r : Reg) : (s.readCpsrInto r).pc = s.pc := by
  unfold State.readCpsrInto; split <;> rfl
@[simp] theorem State.readCpsrInto_mem (r : Reg) : (s.readCpsrInto r).mem = s.mem := by
  unfold State.readCpsrInto; split <;> rfl
@[simp] theorem State.readCpsrInto_inp (r : Reg) : (s.readCpsrInto r).inp = s.inp := by
  unfold State.readCpsrInto; split <;> rfl
@[simp] theorem State.readCpsrInto_env (r : Reg) : (s.readCpsrInto r).env = s.env := by
  unfold State.readCpsrInto; split <;> rfl
@[simp] theorem State.readCpsrInto_pending (r : Reg) : (s.readCpsrInto r).pending = s.pending := by
  unfold State.readCpsrInto; split <;> rfl
@[simp] theorem State.readCpsrInto_stale (r : Reg) : (s.readCpsrInto r).stale = s.stale := by
  unfold State.readCpsrInto; split <;> rfl
@[simp] theorem State.readCpsrInto_lastFetch (r : Reg) : (s.readCpsrInto r).lastFetch = s.lastFetch := by
  unfold State.readCpsrInto; split <;> rfl
@[simp] theorem State.writeMode_cfg (m : BitVec 5) : (s.writeMode m).cfg = s.cfg := by
  unfold State.writeMode; split <;> rfl
@[simp] theorem State.writeMode_spsr (m : BitVec 5) : (s.writeMode m).spsr = s.spsr := by
  unfold State.writeMode; split <;> rfl
@[simp] theorem State.writeMode_x (m : BitVec 5) : (s.writeMode m).x = s.x := by
  unfold State.writeMode; split <;> rfl
@[simp] theorem State.writeMode_pc (m : BitVec 5) : (s.writeMode m).pc = s.pc := by
  unfold State.writeMode; split <;> rfl
@[simp] theorem State.writeMode_mem (m : BitVec 5) : (s.writeMode m).mem = s.mem := by
  unfold State.writeMode; split <;> rfl
@[simp] theorem State.writeMode_env (m : BitVec 5) : (s.writeMode m).env = s.env := by
  unfold State.writeMode; split <;> rfl
@[simp] theorem State.writeMode_pending (m : BitVec 5) : (s.writeMode m).pending = s.pending := by
  unfold State.writeMode; split <;> rfl
@[simp] theorem State.writeMode_lastFetch (m : BitVec 5) : (s.writeMode m).lastFetch = s.lastFetch := by
  unfold State.writeMode; split <;> rfl
@[simp] theorem State.writeMode_freeCount (m : BitVec 5) : (s.writeMode m).freeCount = s.freeCount := by
  unfold State.writeMode; split <;> rfl
@[simp] theorem State.cpsrWrite_cfg (v : Word) (k : BitVec 4) : (s.cpsrWrite v k).cfg = s.cfg := by
  unfold State.cpsrWrite; split <;> simp
@[simp] theorem State.cpsrWrite_spsr (v : Word) (k : BitVec 4) : (s.cpsrWrite v k).spsr = s.spsr := by
  unfold State.cpsrWrite; split <;> simp
@[simp] theorem State.cpsrWrite_x (v : Word) (k : BitVec 4) : (s.cpsrWrite v k).x = s.x := by
  unfold State.cpsrWrite; split <;> simp
@[simp] theorem State.cpsrWrite_pc (v : Word) (k : BitVec 4) : (s.cpsrWrite v k).pc = s.pc := by
  unfold State.cpsrWrite; split <;> simp
@[simp] theorem State.cpsrWrite_mem (v : Word) (k : BitVec 4) : (s.cpsrWrite v k).mem = s.mem := by
  unfold State.cpsrWrite; split <;> simp
@[simp] theorem State.cpsrWrite_env (v : Word) (k : BitVec 4) : (s.cpsrWrite v k).env = s.env := by
  unfold State.cpsrWrite; split <;> simp
@[simp] theorem State.cpsrWrite_pending (v : Word) (k : BitVec 4) : (s.cpsrWrite v k).pending = s.pending := by
  unfold State.cpsrWrite; split <;> simp
@[simp] theorem State.cpsrWrite_lastFetch (v : Word) (k : BitVec 4) : (s.cpsrWrite v k).lastFetch = s.lastFetch := by
  unfold State.cpsrWrite; split <;> simp
@[simp] theorem State.cpsrWrite_freeCount (v : Word) (k : BitVec 4) : (s.cpsrWrite v k).freeCount = s.freeCount := by
  unfold State.cpsrWrite; split <;> simp
@[simp] theorem State.cpsMode_cfg (m : BitVec 5) : (s.cpsMode m).cfg = s.cfg := by
  unfold State.cpsMode; split <;> simp
@[simp] theorem State.cpsMode_spsr (m : BitVec 5) : (s.cpsMode m).spsr = s.spsr := by
  unfold State.cpsMode; split <;> simp
@[simp] theorem State.cpsMode_x (m : BitVec 5) : (s.cpsMode m).x = s.x := by
  unfold State.cpsMode; split <;> simp
@[simp] theorem State.cpsMode_pc (m : BitVec 5) : (s.cpsMode m).pc = s.pc := by
  unfold State.cpsMode; split <;> simp
@[simp] theorem State.cpsMode_mem (m : BitVec 5) : (s.cpsMode m).mem = s.mem := by
  unfold State.cpsMode; split <;> simp
@[simp] theorem State.cpsMode_env (m : BitVec 5) : (s.cpsMode m).env = s.env := by
  unfold State.cpsMode; split <;> simp
@[simp] theorem State.cpsMode_pending (m : BitVec 5) : (s.cpsMode m).pending = s.pending := by
  unfold State.cpsMode; split <;> simp
@[simp] theorem State.cpsMode_lastFetch (m : BitVec 5) : (s.cpsMode m).lastFetch = s.lastFetch := by
  unfold State.cpsMode; split <;> simp
@[simp] theorem State.cpsMode_freeCount (m : BitVec 5) : (s.cpsMode m).freeCount = s.freeCount := by
  unfold State.cpsMode; split <;> simp
@[simp] theorem State.cpsMasks_cfg (b : Bool) (fl : IFlags) (mode : Option (BitVec 5)) : (s.cpsMasks b fl mode).cfg = s.cfg := by
  unfold State.cpsMasks; split <;> (try cases mode) <;> simp
@[simp] theorem State.cpsMasks_spsr (b : Bool) (fl : IFlags) (mode : Option (BitVec 5)) : (s.cpsMasks b fl mode).spsr = s.spsr := by
  unfold State.cpsMasks; split <;> (try cases mode) <;> simp
@[simp] theorem State.cpsMasks_x (b : Bool) (fl : IFlags) (mode : Option (BitVec 5)) : (s.cpsMasks b fl mode).x = s.x := by
  unfold State.cpsMasks; split <;> (try cases mode) <;> simp
@[simp] theorem State.cpsMasks_pc (b : Bool) (fl : IFlags) (mode : Option (BitVec 5)) : (s.cpsMasks b fl mode).pc = s.pc := by
  unfold State.cpsMasks; split <;> (try cases mode) <;> simp
@[simp] theorem State.cpsMasks_mem (b : Bool) (fl : IFlags) (mode : Option (BitVec 5)) : (s.cpsMasks b fl mode).mem = s.mem := by
  unfold State.cpsMasks; split <;> (try cases mode) <;> simp
@[simp] theorem State.cpsMasks_env (b : Bool) (fl : IFlags) (mode : Option (BitVec 5)) : (s.cpsMasks b fl mode).env = s.env := by
  unfold State.cpsMasks; split <;> (try cases mode) <;> simp
@[simp] theorem State.cpsMasks_pending (b : Bool) (fl : IFlags) (mode : Option (BitVec 5)) : (s.cpsMasks b fl mode).pending = s.pending := by
  unfold State.cpsMasks; split <;> (try cases mode) <;> simp
@[simp] theorem State.cpsMasks_lastFetch (b : Bool) (fl : IFlags) (mode : Option (BitVec 5)) : (s.cpsMasks b fl mode).lastFetch = s.lastFetch := by
  unfold State.cpsMasks; split <;> (try cases mode) <;> simp
@[simp] theorem State.cpsMasks_freeCount (b : Bool) (fl : IFlags) (mode : Option (BitVec 5)) : (s.cpsMasks b fl mode).freeCount = s.freeCount := by
  unfold State.cpsMasks; split <;> (try cases mode) <;> simp
@[simp] theorem State.setPan_cfg (b : Bool) : (s.setPan b).cfg = s.cfg := by
  unfold State.setPan; split <;> rfl
@[simp] theorem State.setPan_spsr (b : Bool) : (s.setPan b).spsr = s.spsr := by
  unfold State.setPan; split <;> rfl
@[simp] theorem State.setPan_x (b : Bool) : (s.setPan b).x = s.x := by
  unfold State.setPan; split <;> rfl
@[simp] theorem State.setPan_pc (b : Bool) : (s.setPan b).pc = s.pc := by
  unfold State.setPan; split <;> rfl
@[simp] theorem State.setPan_mem (b : Bool) : (s.setPan b).mem = s.mem := by
  unfold State.setPan; split <;> rfl
@[simp] theorem State.setPan_inp (b : Bool) : (s.setPan b).inp = s.inp := by
  unfold State.setPan; split <;> rfl
@[simp] theorem State.setPan_env (b : Bool) : (s.setPan b).env = s.env := by
  unfold State.setPan; split <;> rfl
@[simp] theorem State.setPan_pending (b : Bool) : (s.setPan b).pending = s.pending := by
  unfold State.setPan; split <;> rfl
@[simp] theorem State.setPan_stale (b : Bool) : (s.setPan b).stale = s.stale := by
  unfold State.setPan; split <;> rfl
@[simp] theorem State.setPan_lastFetch (b : Bool) : (s.setPan b).lastFetch = s.lastFetch := by
  unfold State.setPan; split <;> rfl
@[simp] theorem State.setPan_freeCount (b : Bool) : (s.setPan b).freeCount = s.freeCount := by
  unfold State.setPan; split <;> rfl

end Sys2Proof.Machine
end

