-- ==== Sys2Proof/Laws/Ops.lean ====
section
/-! SUPPORT. What each shared operation can do, said once: the meanings in T32 form, SETEND, SETPAN, LDR, the CPSR write, the
CPS operations, taking an exception, and exec as a whole. -/

namespace Sys2Proof.Machine

open Sys2Proof.Safety

/-- A T32 form that answers a next state stands outside an IT block. -/
theorem outsideItBlock_next {s t : State} {run : Host.Outcome State Fault Refusal}
    (h : outsideItBlock s run = .next t) : s.pstate.it = 0 ∧ run = .next t := by
  unfold outsideItBlock at h
  split at h
  · exact ⟨by assumption, h⟩
  · cases h

/-- What SETEND can do. -/
theorem setend_next {e : Bool} {n : Nat} {s t : State} (h : setend e n s = .next t) :
    (s.cfg.setendDisabled = true ∧ t = s.takeException .undefinedInstruction)
      ∨ (s.cfg.setendDisabled = false ∧ t = (s.setE e).advance n) := by
  unfold setend at h
  split at h
  · cases h; exact .inl ⟨by assumption, rfl⟩
  · split at h
    · cases h
    · cases h; exact .inr ⟨by simpa using ‹¬ s.cfg.setendDisabled = true›, rfl⟩

/-- What SETPAN can do. -/
theorem setpan_next {b : Bool} {n : Nat} {s t : State} (h : setpan b n s = .next t) :
    (s.cfg.havePAN = false ∧ t = s.takeException .undefinedInstruction)
      ∨ (s.cfg.havePAN = true ∧ t = (s.setPan b).advance n) := by
  unfold setpan at h
  split at h
  · cases h; exact .inr ⟨by assumption, rfl⟩
  · cases h; exact .inl ⟨by simpa using ‹¬ s.cfg.havePAN = true›, rfl⟩

/-- What LDR can do. -/
theorem execLdrA1_next {cond : BitVec 4} {up : Bool} {rn rt : Reg} {imm12 : BitVec 12} {s t : State}
    (h : execLdrA1 cond up rn rt imm12 s = .next t) :
    t = s.advance 4 ∨ ∃ v, s.loadWord (offsetAddress (s.readReg rn) up imm12) = some v ∧ t = (s.writeReg rt v).advance 4 := by
  unfold execLdrA1 at h
  split at h
  · rename_i v hv
    cases h
    split
    · exact .inr ⟨v, hv, rfl⟩
    · exact .inl rfl
  · split at h
    · cases h
    · cases h; exact .inl rfl

theorem State.readReg_writeReg_same (s : State) (r : Reg) (v : Word) : (s.writeReg r v).readReg r = v := by
  simp [State.readReg, State.writeReg]

theorem State.readReg_writeReg_other (s : State) (r r' : Reg) (v : Word) (h : r' ≠ r) :
    (s.writeReg r v).readReg r' = s.readReg r' := by
  have : (r : Nat) ≠ r' := fun he => h (Fin.ext he.symm)
  simp [State.readReg, State.writeReg, this]

theorem State.readCpsrInto_readReg (s : State) (r : Reg) : (s.readCpsrInto r).readReg r = s.mrsValue := by
  unfold State.readCpsrInto
  split
  · exact State.readReg_writeReg_same s r _
  · exact State.readReg_writeReg_same s r _

theorem State.readCpsrInto_readReg_other (s : State) (r r' : Reg) (h : r' ≠ r) :
    (s.readCpsrInto r).readReg r' = s.readReg r' := by
  unfold State.readCpsrInto
  split
  · exact State.readReg_writeReg_other s r r' _ h
  · exact State.readReg_writeReg_other s r r' _ h

/-- The CPSR write as fields and a write of M. -/
theorem State.cpsrWrite_eq (s : State) (v : Word) (k : BitVec 4) :
    s.cpsrWrite v k =
      if laneC k && !s.pl0 then
        State.writeMode { s with pstate := cpsrWriteFields s.cfg (!s.pl0) v k s.pstate } (field v 0 5)
      else { s with pstate := cpsrWriteFields s.cfg (!s.pl0) v k s.pstate } := rfl

/-- PSTATE after the CPSR write. -/
theorem State.cpsrWrite_pstate (s : State) (v : Word) (k : BitVec 4) :
    (s.cpsrWrite v k).pstate =
      if laneC k && !s.pl0 then
        if illegalModeChange s.cfg s.inp s.pstate.m (field v 0 5) then
          { cpsrWriteFields s.cfg (!s.pl0) v k s.pstate with il := true }
        else { cpsrWriteFields s.cfg (!s.pl0) v k s.pstate with m := field v 0 5 }
      else cpsrWriteFields s.cfg (!s.pl0) v k s.pstate := by
  rw [State.cpsrWrite_eq]
  split
  · rw [State.writeMode_pstate]; rfl
  · rfl

/-- A CPSR write that leaves M leaves the inputs and the fetch window. -/
theorem State.cpsrWrite_same {s : State} {v : Word} {k : BitVec 4} (h : (s.cpsrWrite v k).pstate.m = s.pstate.m) :
    (s.cpsrWrite v k).inp = s.inp ∧ (s.cpsrWrite v k).stale = s.stale := by
  by_cases hc : (laneC k && !s.pl0) = true
  · simp only [State.cpsrWrite_eq, if_pos hc] at h ⊢
    exact State.writeMode_same h
  · rw [State.cpsrWrite_eq, if_neg hc]
    exact ⟨rfl, rfl⟩

/-- PSTATE after CPSIE or CPSID. -/
theorem State.cpsMasks_pstate (s : State) (b : Bool) (fl : IFlags) (mode : Option (BitVec 5)) :
    (s.cpsMasks b fl mode).pstate =
      if s.pl0 then s.pstate
      else match mode with
        | some m =>
          if illegalModeChange s.cfg s.inp s.pstate.m m then { setMasks b fl s.pstate with il := true }
          else { setMasks b fl s.pstate with m := m }
        | none => setMasks b fl s.pstate := by
  unfold State.cpsMasks
  cases mode with
  | none => split <;> rfl
  | some m =>
    split
    · rfl
    · rw [State.writeMode_pstate]; rfl

/-- CPSIE or CPSID that leaves M leaves the inputs and the fetch window. -/
theorem State.cpsMasks_same {s : State} {b : Bool} {fl : IFlags} {mode : Option (BitVec 5)}
    (h : (s.cpsMasks b fl mode).pstate.m = s.pstate.m) :
    (s.cpsMasks b fl mode).inp = s.inp ∧ (s.cpsMasks b fl mode).stale = s.stale := by
  unfold State.cpsMasks at h ⊢
  by_cases hp : s.pl0 = true
  · simp [hp]
  · cases mode with
    | none => simp [hp]
    | some m =>
      simp only [if_neg hp] at h ⊢
      exact State.writeMode_same h

/-- PSTATE after CPS #mode. -/
theorem State.cpsMode_pstate (s : State) (m : BitVec 5) :
    (s.cpsMode m).pstate =
      if s.pl0 then s.pstate
      else if illegalModeChange s.cfg s.inp s.pstate.m m then { s.pstate with il := true } else { s.pstate with m := m } := by
  unfold State.cpsMode
  split
  · rfl
  · exact State.writeMode_pstate s m

/-- CPS #mode that leaves M leaves the inputs and the fetch window. -/
theorem State.cpsMode_same {s : State} {m : BitVec 5} (h : (s.cpsMode m).pstate.m = s.pstate.m) :
    (s.cpsMode m).inp = s.inp ∧ (s.cpsMode m).stale = s.stale := by
  unfold State.cpsMode at h ⊢
  split at h
  · simp_all
  · simp_all only [Bool.not_eq_true, Bool.false_eq_true, if_false]; exact State.writeMode_same h

/-- What a write of M, a CPSR write, a CPS, a SETPAN or the read of the CPSR leaves alone. -/
abbrev keepsOutside (s t : State) : Prop :=
  t.cfg = s.cfg ∧ t.spsr = s.spsr ∧ t.mem = s.mem ∧ t.env = s.env ∧ t.pending = s.pending ∧ t.lastFetch = s.lastFetch ∧ t.pc = s.pc

/-- The same, with the general registers and the count of free values. -/
abbrev keepsRegs (s t : State) : Prop := keepsOutside s t ∧ t.x = s.x ∧ t.freeCount = s.freeCount

theorem State.writeMode_keeps (s : State) (m : BitVec 5) : keepsRegs s (s.writeMode m) := by
  unfold State.writeMode
  split <;> exact ⟨⟨rfl, rfl, rfl, rfl, rfl, rfl, rfl⟩, rfl, rfl⟩

theorem State.cpsrWrite_keeps (s : State) (v : Word) (k : BitVec 4) : keepsRegs s (s.cpsrWrite v k) := by
  rw [State.cpsrWrite_eq]
  split
  · exact State.writeMode_keeps { s with pstate := cpsrWriteFields s.cfg (!s.pl0) v k s.pstate } _
  · exact ⟨⟨rfl, rfl, rfl, rfl, rfl, rfl, rfl⟩, rfl, rfl⟩

theorem State.cpsMasks_keeps (s : State) (b : Bool) (fl : IFlags) (mode : Option (BitVec 5)) :
    keepsRegs s (s.cpsMasks b fl mode) := by
  unfold State.cpsMasks
  split
  · exact ⟨⟨rfl, rfl, rfl, rfl, rfl, rfl, rfl⟩, rfl, rfl⟩
  · cases mode
    · exact ⟨⟨rfl, rfl, rfl, rfl, rfl, rfl, rfl⟩, rfl, rfl⟩
    · exact State.writeMode_keeps { s with pstate := setMasks b fl s.pstate } _

theorem State.cpsMode_keeps (s : State) (m : BitVec 5) : keepsRegs s (s.cpsMode m) := by
  unfold State.cpsMode
  split
  · exact ⟨⟨rfl, rfl, rfl, rfl, rfl, rfl, rfl⟩, rfl, rfl⟩
  · exact State.writeMode_keeps s m

theorem State.setPan_keeps (s : State) (b : Bool) :
    keepsRegs s (s.setPan b) ∧ (s.setPan b).inp = s.inp ∧ (s.setPan b).stale = s.stale := by
  unfold State.setPan
  split <;> exact ⟨⟨⟨rfl, rfl, rfl, rfl, rfl, rfl, rfl⟩, rfl, rfl⟩, rfl, rfl⟩

theorem State.setPan_pstate (s : State) (b : Bool) :
    (s.setPan b).pstate = { s.pstate with pan := if s.pl0 then s.pstate.pan else b } := by
  unfold State.setPan
  split <;> simp_all

theorem State.readCpsrInto_keeps (s : State) (r : Reg) :
    keepsOutside s (s.readCpsrInto r) ∧ (s.readCpsrInto r).pstate = s.pstate ∧ (s.readCpsrInto r).inp = s.inp
      ∧ (s.readCpsrInto r).stale = s.stale := by
  unfold State.readCpsrInto
  split <;> exact ⟨⟨rfl, rfl, rfl, rfl, rfl, rfl, rfl⟩, rfl, rfl, rfl⟩

/-- The target of an exception is one of its target modes. -/
theorem exceptionTarget_mem (c : Config) (inp : Inputs) (exc : ExcKind) (m : BitVec 5) :
    exceptionTarget c inp exc m ∈ targetModes c exc := by
  unfold exceptionTarget targetModes
  split
  · simp
  · split <;> simp

@[simp] theorem State.takeException_cfg (s : State) (exc : ExcKind) : (s.takeException exc).cfg = s.cfg := rfl
@[simp] theorem State.takeException_x (s : State) (exc : ExcKind) : (s.takeException exc).x = s.x := rfl
@[simp] theorem State.takeException_mem (s : State) (exc : ExcKind) : (s.takeException exc).mem = s.mem := rfl
@[simp] theorem State.takeException_env (s : State) (exc : ExcKind) : (s.takeException exc).env = s.env := rfl
@[simp] theorem State.takeException_pending (s : State) (exc : ExcKind) : (s.takeException exc).pending = s.pending := rfl
@[simp] theorem State.takeException_pstate (s : State) (exc : ExcKind) :
    (s.takeException exc).pstate =
      entryPState s.cfg s.inp exc (exceptionTarget s.cfg s.inp exc s.pstate.m) s.pstate := rfl

/-- What exec can do, in one list: the state each kind of instruction leaves, or an Undefined Instruction exception. -/
theorem exec_cases {i : Instr} {s t : State} (h : exec i s = .next t) :
    (∃ n, t = s.advance n)
      ∨ (∃ r, ((∃ cond, i = .mrsA1 cond r) ∨ i = .mrsT1 r) ∧ t = (s.readCpsrInto r).advance 4)
      ∨ (isMsr i = true ∧ ∃ v k, t = (s.cpsrWrite v k).advance 4)
      ∨ (isCps i = true ∧ ((∃ b fl mode n, t = (s.cpsMasks b fl mode).advance n) ∨ ∃ m, t = (s.cpsMode m).advance 4))
      ∨ (isSetend i = true ∧ ∃ e n, t = (s.setE e).advance n)
      ∨ (isSetpan i = true ∧ s.cfg.havePAN = true ∧ ∃ b n, t = (s.setPan b).advance n)
      ∨ (∃ cond up rn rt imm12 v, i = .ldrA1 cond up rn rt imm12 ∧ t = (s.writeReg rt v).advance 4)
      ∨ ((isSetend i = true ∨ isSetpan i = true) ∧ t = s.takeException .undefinedInstruction) := by
  have hend : ∀ {e n}, isSetend i = true → setend e n s = .next t →
      (isSetend i = true ∧ ∃ e n, t = (s.setE e).advance n)
        ∨ ((isSetend i = true ∨ isSetpan i = true) ∧ t = s.takeException .undefinedInstruction) := by
    intro e n hi hs
    rcases setend_next hs with ⟨-, ht⟩ | ⟨-, ht⟩
    · exact .inr ⟨.inl hi, ht⟩
    · exact .inl ⟨hi, e, n, ht⟩
  have hpan : ∀ {b n}, isSetpan i = true → setpan b n s = .next t →
      (isSetpan i = true ∧ s.cfg.havePAN = true ∧ ∃ b n, t = (s.setPan b).advance n)
        ∨ ((isSetend i = true ∨ isSetpan i = true) ∧ t = s.takeException .undefinedInstruction) := by
    intro b n hi hs
    rcases setpan_next hs with ⟨-, ht⟩ | ⟨hc, ht⟩
    · exact .inr ⟨.inr hi, ht⟩
    · exact .inl ⟨hi, hc, b, n, ht⟩
  cases i with
  | cpsieA1 fl mode => cases h; exact .inr (.inr (.inr (.inl ⟨rfl, .inl ⟨_, _, _, _, rfl⟩⟩)))
  | cpsidA1 fl mode => cases h; exact .inr (.inr (.inr (.inl ⟨rfl, .inl ⟨_, _, _, _, rfl⟩⟩)))
  | cpsA1 mode => cases h; exact .inr (.inr (.inr (.inl ⟨rfl, .inr ⟨_, rfl⟩⟩)))
  | cpsieT1 fl =>
    cases (outsideItBlock_next h).2; exact .inr (.inr (.inr (.inl ⟨rfl, .inl ⟨_, _, _, _, rfl⟩⟩)))
  | cpsidT1 fl =>
    cases (outsideItBlock_next h).2; exact .inr (.inr (.inr (.inl ⟨rfl, .inl ⟨_, _, _, _, rfl⟩⟩)))
  | cpsieT2 fl mode =>
    cases (outsideItBlock_next h).2; exact .inr (.inr (.inr (.inl ⟨rfl, .inl ⟨_, _, _, _, rfl⟩⟩)))
  | cpsidT2 fl mode =>
    cases (outsideItBlock_next h).2; exact .inr (.inr (.inr (.inl ⟨rfl, .inl ⟨_, _, _, _, rfl⟩⟩)))
  | cpsT2 mode => cases (outsideItBlock_next h).2; exact .inr (.inr (.inr (.inl ⟨rfl, .inr ⟨_, rfl⟩⟩)))
  | setendBeA1 | setendLeA1 =>
    rcases hend rfl h with h | h
    · exact .inr (.inr (.inr (.inr (.inl h))))
    · exact .inr (.inr (.inr (.inr (.inr (.inr (.inr h))))))
  | setendBeT1 | setendLeT1 =>
    rcases hend rfl (outsideItBlock_next h).2 with h | h
    · exact .inr (.inr (.inr (.inr (.inl h))))
    · exact .inr (.inr (.inr (.inr (.inr (.inr (.inr h))))))
  | setpan0A1 | setpan1A1 =>
    rcases hpan rfl h with h | h
    · exact .inr (.inr (.inr (.inr (.inr (.inl h)))))
    · exact .inr (.inr (.inr (.inr (.inr (.inr (.inr h))))))
  | setpan0T1 | setpan1T1 =>
    rcases hpan rfl (outsideItBlock_next h).2 with h | h
    · exact .inr (.inr (.inr (.inr (.inr (.inl h)))))
    · exact .inr (.inr (.inr (.inr (.inr (.inr (.inr h))))))
  | mrsA1 cond rd =>
    cases h
    cases conditionPassed cond s.pstate
    · exact .inl ⟨4, rfl⟩
    · exact .inr (.inl ⟨rd, .inl ⟨cond, rfl⟩, rfl⟩)
  | mrsT1 rd =>
    cases h
    cases itPassed s.pstate
    · exact .inl ⟨4, rfl⟩
    · exact .inr (.inl ⟨rd, .inr rfl, rfl⟩)
  | msrRegA1 cond mask rn =>
    cases h
    cases conditionPassed cond s.pstate
    · exact .inl ⟨4, rfl⟩
    · exact .inr (.inr (.inl ⟨rfl, _, _, rfl⟩))
  | msrImmA1 cond mask imm12 =>
    cases h
    cases conditionPassed cond s.pstate
    · exact .inl ⟨4, rfl⟩
    · exact .inr (.inr (.inl ⟨rfl, _, _, rfl⟩))
  | msrRegT1 mask rn =>
    cases h
    cases itPassed s.pstate
    · exact .inl ⟨4, rfl⟩
    · exact .inr (.inr (.inl ⟨rfl, _, _, rfl⟩))
  | ldrA1 cond up rn rt imm12 =>
    rcases execLdrA1_next h with ht | ⟨v, -, ht⟩
    · exact .inl ⟨4, ht⟩
    · exact .inr (.inr (.inr (.inr (.inr (.inr (.inl ⟨_, _, _, _, _, v, rfl, ht⟩))))))

end Sys2Proof.Machine
end

