-- ==== Sys2Proof/Laws/PerInstr.lean ====
section
/-! SUPPORT. Per instruction: the words of an instruction lie in its row of spec/opcode_table.json (its fixed bits). -/

namespace Sys2Proof.Laws.TableRow

open Sys2Proof Sys2Proof.Machine

/-- An encoding as the table numbers it: a T32 first halfword in bits 31:16. -/
def tableWord : Encoding → Word
  | .a32 w => w
  | .t16 h => place 32 h 0
  | .t32 h1 h2 => place 32 h1 16 ||| place 32 h2 0

/-- The row's match and mask. -/
def row : Instr → Word × Word
  | .cpsieA1 _ _ => (0xF1080000, 0xFFFDFE20)
  | .cpsidA1 _ _ => (0xF10C0000, 0xFFFDFE20)
  | .cpsA1 _ => (0xF1020000, 0xFFFFFFE0)
  | .setendBeA1 => (0xF1010200, 0xFFFFFFFF)
  | .setendLeA1 => (0xF1010000, 0xFFFFFFFF)
  | .setpan0A1 => (0xF1100000, 0xFFFFFFFF)
  | .setpan1A1 => (0xF1100200, 0xFFFFFFFF)
  | .mrsA1 _ _ => (0x010F0000, 0x0FFF0FFF)
  | .msrRegA1 _ _ _ => (0x0120F000, 0x0FF0FFF0)
  | .msrImmA1 _ _ _ => (0x0320F000, 0x0FF0F000)
  | .cpsieT1 _ => (0xB660, 0xFFF8)
  | .cpsidT1 _ => (0xB670, 0xFFF8)
  | .cpsieT2 _ _ => (0xF3AF8400, 0xFFFFFE00)
  | .cpsidT2 _ _ => (0xF3AF8600, 0xFFFFFE00)
  | .cpsT2 _ => (0xF3AF8100, 0xFFFFFFE0)
  | .setendBeT1 => (0xB658, 0xFFFF)
  | .setendLeT1 => (0xB650, 0xFFFF)
  | .setpan0T1 => (0xB610, 0xFFFF)
  | .setpan1T1 => (0xB618, 0xFFFF)
  | .mrsT1 _ => (0xF3EF8000, 0xFFFFF0FF)
  | .msrRegT1 _ _ => (0xF3808000, 0xFFF0F0FF)
  | .ldrA1 _ _ _ _ _ => (0x05100000, 0x0F700000)

/-- The words of the instruction lie in its row. -/
def Statement (i : Instr) : Prop := tableWord (encode i) &&& (row i).2 = (row i).1

/-- The CPS operands lie outside the row's fixed bits in the A32 word. -/
theorem cpsFieldsA1_and (fl : IFlags) (mode : Option (BitVec 5)) : cpsFieldsA1 fl mode &&& 0xFFFDFE20 = 0 := by
  simp only [cpsFieldsA1, or_mask]
  rw [placeBit_and_eq_zero _ 17 _ (by decide), placeBit_and_eq_zero _ 8 _ (by decide),
    placeBit_and_eq_zero _ 7 _ (by decide), placeBit_and_eq_zero _ 6 _ (by decide),
    place_and_eq_zero _ 0 _ (by decide)]
  rfl

/-- The CPS operands lie outside the row's fixed bits in the T32 second halfword. -/
theorem cpsFieldsT2_and (fl : IFlags) (mode : Option (BitVec 5)) : cpsFieldsT2 fl mode &&& 0xFE00 = 0 := by
  simp only [cpsFieldsT2, or_mask]
  rw [placeBit_and_eq_zero _ 8 _ (by decide), placeBit_and_eq_zero _ 7 _ (by decide),
    placeBit_and_eq_zero _ 6 _ (by decide), placeBit_and_eq_zero _ 5 _ (by decide),
    place_and_eq_zero _ 0 _ (by decide)]
  rfl

/-- A T32 second halfword under a table mask. -/
theorem table_t32_and (h1 h2 m1 m2 : Half) :
    (place 32 h1 16 ||| place 32 h2 0) &&& (place 32 m1 16 ||| place 32 m2 0)
      = place 32 (h1 &&& m1) 16 ||| place 32 (h2 &&& m2) 0 :=
  eq_of_bit fun j hj => by
    simp only [bit_or, bit_and, bit_place, hj, decide_true, Bool.true_and]
    by_cases hk : 16 ≤ j
    · have hb : ∀ v : Half, bit v j = false := fun v => by
        simp only [bit]; exact BitVec.getLsbD_of_ge _ _ (by omega)
      simp [hk, hb]
    · simp [hk]

theorem cpsieA1 (fl : IFlags) (mode : Option (BitVec 5)) : Statement (.cpsieA1 fl mode) := by
  simp only [Statement, tableWord, encode, row, or_mask, cpsFieldsA1_and]
  decide

theorem cpsidA1 (fl : IFlags) (mode : Option (BitVec 5)) : Statement (.cpsidA1 fl mode) := by
  simp only [Statement, tableWord, encode, row, or_mask, cpsFieldsA1_and]
  decide

theorem cpsA1 (mode : BitVec 5) : Statement (.cpsA1 mode) := by
  simp only [Statement, tableWord, encode, row, or_mask]
  rw [place_and_eq_zero mode 0 _ (by decide)]
  decide

theorem setendBeA1 : Statement .setendBeA1 := by unfold Statement; decide

theorem setendLeA1 : Statement .setendLeA1 := by unfold Statement; decide

theorem setpan0A1 : Statement .setpan0A1 := by unfold Statement; decide

theorem setpan1A1 : Statement .setpan1A1 := by unfold Statement; decide

theorem mrsA1 (cond : BitVec 4) (rd : Reg) : Statement (.mrsA1 cond rd) := by
  simp only [Statement, tableWord, encode, row, or_mask]
  rw [place_and_eq_zero cond 28 _ (by decide), place_and_eq_zero (regField rd) 12 _ (by decide)]
  decide

theorem msrRegA1 (cond mask : BitVec 4) (rn : Reg) : Statement (.msrRegA1 cond mask rn) := by
  simp only [Statement, tableWord, encode, row, or_mask]
  rw [place_and_eq_zero cond 28 _ (by decide), place_and_eq_zero mask 16 _ (by decide),
    place_and_eq_zero (regField rn) 0 _ (by decide)]
  decide

theorem msrImmA1 (cond mask : BitVec 4) (imm12 : BitVec 12) : Statement (.msrImmA1 cond mask imm12) := by
  simp only [Statement, tableWord, encode, row, or_mask]
  rw [place_and_eq_zero cond 28 _ (by decide), place_and_eq_zero mask 16 _ (by decide),
    place_and_eq_zero imm12 0 _ (by decide)]
  decide

theorem cpsieT1 (fl : IFlags) : Statement (.cpsieT1 fl) := by
  obtain ⟨a, i, f⟩ := fl
  cases a <;> cases i <;> cases f <;> (unfold Statement; decide)

theorem cpsidT1 (fl : IFlags) : Statement (.cpsidT1 fl) := by
  obtain ⟨a, i, f⟩ := fl
  cases a <;> cases i <;> cases f <;> (unfold Statement; decide)

theorem cpsieT2 (fl : IFlags) (mode : Option (BitVec 5)) : Statement (.cpsieT2 fl mode) := by
  simp only [Statement, tableWord, encode, row]
  rw [show (0xFFFFFE00 : Word) = place 32 (0xFFFF : Half) 16 ||| place 32 (0xFE00 : Half) 0 by decide, table_t32_and,
    or_mask, cpsFieldsT2_and]
  decide

theorem cpsidT2 (fl : IFlags) (mode : Option (BitVec 5)) : Statement (.cpsidT2 fl mode) := by
  simp only [Statement, tableWord, encode, row]
  rw [show (0xFFFFFE00 : Word) = place 32 (0xFFFF : Half) 16 ||| place 32 (0xFE00 : Half) 0 by decide, table_t32_and,
    or_mask, cpsFieldsT2_and]
  decide

theorem cpsT2 (mode : BitVec 5) : Statement (.cpsT2 mode) := by
  simp only [Statement, tableWord, encode, row]
  rw [show (0xFFFFFFE0 : Word) = place 32 (0xFFFF : Half) 16 ||| place 32 (0xFFE0 : Half) 0 by decide, table_t32_and,
    or_mask, place_and_eq_zero mode 0 _ (by decide)]
  decide

theorem setendBeT1 : Statement .setendBeT1 := by unfold Statement; decide

theorem setendLeT1 : Statement .setendLeT1 := by unfold Statement; decide

theorem setpan0T1 : Statement .setpan0T1 := by unfold Statement; decide

theorem setpan1T1 : Statement .setpan1T1 := by unfold Statement; decide

theorem mrsT1 (rd : Reg) : Statement (.mrsT1 rd) := by
  simp only [Statement, tableWord, encode, row]
  rw [show (0xFFFFF0FF : Word) = place 32 (0xFFFF : Half) 16 ||| place 32 (0xF0FF : Half) 0 by decide, table_t32_and,
    or_mask, place_and_eq_zero (regField rd) 8 _ (by decide)]
  decide

theorem msrRegT1 (mask : BitVec 4) (rn : Reg) : Statement (.msrRegT1 mask rn) := by
  simp only [Statement, tableWord, encode, row]
  rw [show (0xFFF0F0FF : Word) = place 32 (0xFFF0 : Half) 16 ||| place 32 (0xF0FF : Half) 0 by decide, table_t32_and,
    or_mask, or_mask, place_and_eq_zero (regField rn) 0 _ (by decide), place_and_eq_zero mask 8 _ (by decide)]
  decide

theorem ldrA1 (cond : BitVec 4) (up : Bool) (rn rt : Reg) (imm12 : BitVec 12) : Statement (.ldrA1 cond up rn rt imm12) := by
  simp only [Statement, tableWord, encode, row, or_mask]
  rw [place_and_eq_zero cond 28 _ (by decide), placeBit_and_eq_zero up 23 _ (by decide),
    place_and_eq_zero (regField rn) 16 _ (by decide), place_and_eq_zero (regField rt) 12 _ (by decide),
    place_and_eq_zero imm12 0 _ (by decide)]
  decide

end Sys2Proof.Laws.TableRow
end

