-- ==== Sys2Proof/Laws/Step.lean ====
section
/-! SUPPORT. What a step can do, said once: an exception taken instead of an instruction, or one instruction run in the state
that records its fetch. -/

namespace Sys2Proof.Machine

/-- The instruction an attempt runs, runs in the state that records the fetch. -/
theorem State.attempt_run {s s' : State} {i : Instr} (h : s.attempt = .run i s') : s' = s.recordFetch := by
  unfold State.attempt State.fetchDecode at h
  split at h
  · cases h
  · split at h
    · cases h
    · split at h
      · cases h
      · split at h
        · cases h
        · cases h; rfl

/-- What an attempt takes instead of an instruction is an exception of the machine. -/
theorem State.attempt_took {s s' : State} (h : s.attempt = .took s') : ∃ exc, s' = s.takeException exc := by
  unfold State.attempt State.fetchDecode at h
  split at h
  · cases h; exact ⟨_, rfl⟩
  · split at h
    · cases h; exact ⟨_, rfl⟩
    · split at h
      · cases h
      · split at h <;> cases h

/-- With nothing deliverable a step attempts an instruction. -/
theorem State.admission_quiet {s : State} (h : s.deliverable = []) : s.admission = s.attempt := by
  unfold State.admission; rw [h]

/-- With something deliverable the draw chooses. -/
theorem State.admission_choice {s : State} (h : s.deliverable ≠ []) :
    s.admission = match asyncChoice s.deliverable s.freeWord with
      | some exc => .took (s.drawn.takeAsync exc)
      | none => s.drawn.attempt := by
  unfold State.admission
  cases hd : s.deliverable with
  | nil => exact absurd hd h
  | cons e es => rfl

/-- What is chosen is deliverable. -/
theorem asyncChoice_mem {ds : List ExcKind} {w : Word} {exc : ExcKind} (h : asyncChoice ds w = some exc) : exc ∈ ds :=
  List.mem_of_getElem? h

/-- What taking an asynchronous exception leaves. -/
theorem State.takeAsync_entered (s : State) (exc : ExcKind) : Safety.asyncEntered s exc (s.drawn.takeAsync exc) := by
  refine ⟨PerMode.get_set_same _ _ _, rfl, rfl, rfl, rfl, rfl, rfl, rfl, rfl, rfl, ?_, ?_, ?_⟩ <;>
    (intro h; cases exc <;> first | rfl | exact absurd rfl h)

/-- The two ways a step goes on after an attempt in `s`. -/
abbrev AttemptLeads (s t : State) : Prop :=
  (∃ exc, t = (s.takeException exc).nextInputs)
    ∨ ∃ i u, exec i s.recordFetch = .next u ∧ t = (advanceIT s.recordFetch u).nextInputs

/-- Everything a step that answers a next state can have done. -/
theorem step_cases {s t : State} (h : step s = .next t) :
    AttemptLeads s t ∨ AttemptLeads s.drawn t ∨ ∃ exc ∈ s.deliverable, t = (s.drawn.takeAsync exc).nextInputs := by
  have key : ∀ s0 : State, s.admission = s0.attempt → AttemptLeads s0 t := by
    intro s0 ha
    unfold step at h
    rw [ha] at h
    cases hh : s0.attempt with
    | took s' =>
      rw [hh] at h
      obtain ⟨exc, rfl⟩ := State.attempt_took hh
      cases h
      exact .inl ⟨exc, rfl⟩
    | run i s' =>
      rw [hh, State.attempt_run hh] at h
      simp only at h
      cases hx : exec i s0.recordFetch with
      | next u => rw [hx] at h; cases h; exact .inr ⟨i, u, hx, rfl⟩
      | fault r => rw [hx] at h; cases h
      | refused r => rw [hx] at h; cases h
    | fault r => rw [hh] at h; cases h
    | refused r => rw [hh] at h; cases h
  by_cases hd : s.deliverable = []
  · exact .inl (key s (State.admission_quiet hd))
  · have ha := State.admission_choice hd
    cases hx : asyncChoice s.deliverable s.freeWord with
    | none => exact .inr (.inl (key s.drawn (by rw [ha, hx])))
    | some exc =>
      unfold step at h
      rw [ha, hx] at h
      cases h
      exact .inr (.inr ⟨exc, asyncChoice_mem hx, rfl⟩)

/-- Recording a fetch changes the record and the count of free values only. -/
theorem State.recordFetch_keeps (s : State) :
    s.recordFetch.cfg = s.cfg ∧ s.recordFetch.pstate = s.pstate ∧ s.recordFetch.spsr = s.spsr ∧ s.recordFetch.x = s.x
      ∧ s.recordFetch.pc = s.pc ∧ s.recordFetch.mem = s.mem ∧ s.recordFetch.inp = s.inp ∧ s.recordFetch.env = s.env
      ∧ s.recordFetch.pending = s.pending ∧ s.recordFetch.stale = s.stale := by
  unfold State.recordFetch
  split <;> exact ⟨rfl, rfl, rfl, rfl, rfl, rfl, rfl, rfl, rfl, rfl⟩

/-- Advancing IT changes IT and the count of free values only. -/
theorem advanceIT_keeps (s t : State) :
    (advanceIT s t).cfg = t.cfg ∧ (advanceIT s t).pstate = { t.pstate with it := (advanceIT s t).pstate.it }
      ∧ (advanceIT s t).spsr = t.spsr ∧ (advanceIT s t).x = t.x ∧ (advanceIT s t).pc = t.pc ∧ (advanceIT s t).mem = t.mem
      ∧ (advanceIT s t).inp = t.inp ∧ (advanceIT s t).env = t.env ∧ (advanceIT s t).pending = t.pending
      ∧ (advanceIT s t).stale = t.stale := by
  unfold advanceIT
  split <;> exact ⟨rfl, rfl, rfl, rfl, rfl, rfl, rfl, rfl, rfl, rfl⟩

/-- The next inputs change the inputs, the pending exceptions and the environment's list only. -/
theorem State.nextInputs_keeps (s : State) :
    s.nextInputs.cfg = s.cfg ∧ s.nextInputs.pstate = s.pstate ∧ s.nextInputs.spsr = s.spsr ∧ s.nextInputs.x = s.x
      ∧ s.nextInputs.pc = s.pc ∧ s.nextInputs.mem = s.mem ∧ s.nextInputs.env = s.env.tail := by
  unfold State.nextInputs
  split <;> simp [*]

end Sys2Proof.Machine
end

