-- ==== Sys2Proof/Tests/Slice0.lean ====
section
/-! SUPPORT. Tests of one step or one decode each, with expected values from spec/95_test_vectors.md (V, X) or written out from
spec/30_encoding.md R109 and R110; ill-formed terms; and for every statement with hypotheses a witness that they can be met. -/

namespace Sys2Proof.Tests

open Sys2Proof Sys2Proof.Machine Sys2Proof.Safety

/-! Small states -/

/-- The PSTATE of S0 (95_test_vectors.md): what State.reset holds. -/
abbrev p0 : PState := State.reset.pstate

/-- S0 in User mode with the masks clear. -/
abbrev user : State := stateWith { p0 with m := 0b10000, a := false, i := false, f := false }

/-- S0 with the masks clear. -/
abbrev open0 : State := stateWith { p0 with a := false, i := false, f := false }

/-- S0 with another configuration. -/
abbrev withCfg (c : Config) : State := State.warmReset c referenceInputs zeroDraws

/-- One byte order, little-endian unless `e`. -/
abbrev oneOrder (e : Bool) : State := withCfg { referenceConfig with bothEndian := false, onlyEndianness := e }

/-- SETEND disabled. -/
abbrev noSetend : State := withCfg { referenceConfig with setendDisabled := true }

/-- FEAT_PAN, FEAT_DIT and FEAT_SSBS absent. -/
abbrev noFeatures : Config := { referenceConfig with havePAN := false, haveDIT := false, haveSSBS := false }

/-- S0 with other inputs and another mode. -/
abbrev inMode (i : Inputs) (m : BitVec 5) : State := { stateWith { p0 with m := m } with inp := i }

/-- Non-secure inputs. -/
abbrev nonSecure : Inputs := { referenceInputs with security := .nonSecure }

/-- S0 inside an IT block in T32 state. -/
abbrev inIt : State := stateWith { p0 with t := true, it := 0b00001000 }

/-- S0 with the bytes 11 22 33 44 at address 0x100 and x[1] = 0x100 (95 V76). -/
abbrev bytesAt : State :=
  { State.reset with
    mem := [(0x100, 0x11), (0x101, 0x22), (0x102, 0x33), (0x103, 0x44)]
    x := State.reset.x.set 1 0x100 }

/-- The same under another alignment policy, x[1] = 0x102. -/
abbrev oddAt (p : AlignPolicy) : State :=
  { bytesAt with
    cfg := { referenceConfig with alignPolicy := p }
    x := State.reset.x.set 1 0x102 }

/-- The CPSR image and IL after one step that runs a table word. -/
def after (nbits w : Nat) (s : State) : Option (Word × Bool) :=
  match step (s.withFetchWord nbits w) with
  | .next t => some (cpsrRead t.cfg t.pstate, t.pstate.il)
  | .fault _ | .refused _ => none

/-- A register after one step that runs a table word. -/
def reads (nbits w : Nat) (s : State) (r : Reg) : Option Word :=
  match step (s.withFetchWord nbits w) with
  | .next t => some (t.readReg r)
  | .fault _ | .refused _ => none

/-- Whether an outcome is a next state. -/
def answers : Host.Outcome State Fault Refusal → Bool
  | .next _ => true
  | .fault _ | .refused _ => false

theorem exists_of_answers {o : Host.Outcome State Fault Refusal} (h : answers o = true) : ∃ t, o = .next t := by
  cases o with
  | next t => exact ⟨t, rfl⟩
  | fault r => cases h
  | refused r => cases h

/-! Ill-formed terms are refused, one for each check (30_encoding.md R101, R102, R109, R111, R112) -/

theorem test_wellFormed_cps_a32 : (Instr.cpsieA1 ⟨false, false, false⟩ none).wellFormed = false
    ∧ (Instr.cpsidA1 ⟨false, false, false⟩ (some 19)).wellFormed = false := by decide

theorem test_wellFormed_cps_t32 : (Instr.cpsieT1 ⟨false, false, false⟩).wellFormed = false
    ∧ (Instr.cpsidT1 ⟨false, false, false⟩).wellFormed = false
    ∧ (Instr.cpsieT2 ⟨false, false, false⟩ none).wellFormed = false
    ∧ (Instr.cpsidT2 ⟨false, false, false⟩ (some 19)).wellFormed = false := by decide

theorem test_wellFormed_condition : (Instr.mrsA1 15 0).wellFormed = false ∧ (Instr.msrRegA1 15 1 0).wellFormed = false
    ∧ (Instr.msrImmA1 15 1 0).wellFormed = false ∧ (Instr.ldrA1 15 true 1 0 0).wellFormed = false := by decide

theorem test_wellFormed_mask : (Instr.msrRegA1 14 0 0).wellFormed = false ∧ (Instr.msrImmA1 14 0 0).wellFormed = false
    ∧ (Instr.msrRegT1 0 0).wellFormed = false := by decide

theorem test_wellFormed_register : (Instr.mrsT1 13).wellFormed = false ∧ (Instr.msrRegT1 1 13).wellFormed = false := by decide

/-! Decoding: words written bit by bit from R109 and R110, fields in the order of the pattern -/

/-- 1111 00010000 imod M 0 0000000 A I F 0 mode (R109). -/
theorem test_decode_cps_a32 :
    decodeTableWord 32 0b11110001000010000000000010000000 = some (.cpsieA1 ⟨false, true, false⟩ none)
    ∧ decodeTableWord 32 0b11110001000011100000000110010011 = some (.cpsidA1 ⟨true, true, false⟩ (some 0b10011))
    ∧ decodeTableWord 32 0b11110001000000100000000000011010 = some (.cpsA1 0b11010) := by decide

/-- 10110110011 im 0 A I F, and 111100111010 1111 10 0 0 0 imod M A I F mode (R110). -/
theorem test_decode_cps_t32 :
    decodeTableWord 16 0b1011011001100101 = some (.cpsieT1 ⟨true, false, true⟩)
    ∧ decodeTableWord 16 0b1011011001110010 = some (.cpsidT1 ⟨false, true, false⟩)
    ∧ decodeTableWord 32 0b11110011101011111000010001000000 = some (.cpsieT2 ⟨false, true, false⟩ none)
    ∧ decodeTableWord 32 0b11110011101011111000011111110011 = some (.cpsidT2 ⟨true, true, true⟩ (some 0b10011))
    ∧ decodeTableWord 32 0b11110011101011111000000100010011 = some (.cpsT2 0b10011) := by decide

/-- 1111 00010000 0001 000000 E 0 0000 0000, and 101101100101 E 000 (R109, R110). -/
theorem test_decode_setend : decodeTableWord 32 0b11110001000000010000001000000000 = some .setendBeA1
    ∧ decodeTableWord 32 0b11110001000000010000000000000000 = some .setendLeA1
    ∧ decodeTableWord 16 0b1011011001011000 = some .setendBeT1
    ∧ decodeTableWord 16 0b1011011001010000 = some .setendLeT1 := by decide

/-- 1111 00010001 000000000 imm1 0 0000 0000, and 101101100001 imm1 000 (R109, R110). -/
theorem test_decode_setpan : decodeTableWord 32 0b11110001000100000000000000000000 = some .setpan0A1
    ∧ decodeTableWord 32 0b11110001000100000000001000000000 = some .setpan1A1
    ∧ decodeTableWord 16 0b1011011000010000 = some .setpan0T1
    ∧ decodeTableWord 16 0b1011011000011000 = some .setpan1T1 := by decide

/-- cond 00010 R 00 1111 Rd 000000000000, and 11110011111 R 1111 10 0 0 Rd 00000000 (R109, R110). -/
theorem test_decode_mrs : decodeTableWord 32 0b11100001000011110100000000000000 = some (.mrsA1 14 4)
    ∧ decodeTableWord 32 0b11110011111011111000101100000000 = some (.mrsT1 11) := by decide

/-- cond 00010 R 10 mask 1111 00000000 Rn, and 11110011100 R Rn 10 0 0 mask 00000000 (R109, R110). -/
theorem test_decode_msr_register : decodeTableWord 32 0b11100001001001101111000000000001 = some (.msrRegA1 14 6 1)
    ∧ decodeTableWord 32 0b11110011100000101000100100000000 = some (.msrRegT1 9 2) := by decide

/-- cond 00110 R 10 mask 1111 imm12 (R109). -/
theorem test_decode_msr_immediate : decodeTableWord 32 0b11100011001010001111010011110000 = some (.msrImmA1 14 8 0x4F0) := by
  decide

/-- cond 010 P U 0 W 1 Rn Rt imm12, P = 1, W = 0 (opcode_table.json; the word of 95 P2 and one with U = 0). -/
theorem test_decode_ldr : decodeTableWord 32 0b11100101100100010000000000000000 = some (.ldrA1 14 true 1 0 0)
    ∧ decodeTableWord 32 0b00000101000100100011000000000100 = some (.ldrA1 0 false 2 3 4) := by decide

/-- The refused words of 95 section 9, registers 15 and 13, a "should be" bit, writeback. -/
theorem test_decode_refused_words :
    decodeA32 0xF1040000 = .error .cpsReservedImod ∧ decodeA32 0xF1080000 = .error .cpsNoMask
    ∧ decodeA32 0xE14F0000 = .error .savedStatusForm ∧ decodeA32 0xE320F000 = .error .hintSpace
    ∧ decodeA32 0xE10FF000 = .error .registerFifteen ∧ decodeT32 0xF3EF 0x8D00 = .error .registerThirteen
    ∧ decodeA32 0xE10E0000 = .error .shouldBeBits ∧ decodeA32 0xE5B10000 = .error .notInSpec := by decide

/-- A fetch is little-endian while E is 1: the bytes 00 00 01 F1 are SETEND LE (95 V80). -/
theorem test_fetch_little_endian : decodeBytes false [0x00, 0x00, 0x01, 0xF1] = .ok (.setendLeA1, []) := by decide

/-! Reset (95 X3 to X5, V1, V2, V4) -/

theorem test_reset_supervisor : (cpsrRead State.reset.cfg p0 = 0x000001D3) ∧ p0.il = false ∧ p0.it = 0 := by decide

theorem test_reset_hyp : field (cpsrRead referenceConfig (resetPState { referenceConfig with highestELIsEL2 := true } zeroDraws)) 0 9
    = (0x1DA : BitVec 9) := by decide

/-! MRS (95 V12, V14, V15) -/

/-- The PSTATE before V14. -/
abbrev p14 : PState :=
  { p0 with
    n := true
    q := true
    ge := 0b1010
    e := true
    a := false
    i := false
    f := false
    m := 0b11010
    pan := true
    dit := true
    ssbs := true }

theorem test_mrs_all_fields_V14 : reads 32 0xE10F4000 (stateWith p14) 4 = some 0x88EA021A := by decide

theorem test_mrs_absent_features_V15 : reads 32 0xE10F4000 { withCfg noFeatures with pstate := p14 } 4 = some 0x880A021A := by
  decide

theorem test_mrs_t32_hides_T_V12 : reads 32 0xF3EF8000 (stateWith { p0 with z := true, c := true, t := true }) 0
    = some 0x600001D3 := by decide

/-! MSR (95 V21 to V31) -/

theorem test_msr_illegal_hyp_V21 : after 32 0xE321F01A State.reset = some (0x00000113, true) := by decide

theorem test_msr_rotated_flags_V24 : after 32 0xE328F4F0 (stateWith { p0 with q := true }) = some (0xF00001D3, false) := by decide

theorem test_msr_every_bit_V25 : after 32 0xE12FF000 { State.reset with x := State.reset.x.set 0 0xFFFFFFFF }
    = some (0xF8EF03DF, false) := by decide

theorem test_msr_user_V26 : after 32 0xE12FF000 { user with x := State.reset.x.set 0 0xFFFFFFFF } = some (0xF8AF0210, false) := by
  decide

/-- V31 in its T32 encoding: 0xF380 with Rn = 1, 0x8000 with mask = 0110. -/
theorem test_msr_t32_lanes_V31 : after 32 0xF3818600 { State.reset with x := State.reset.x.set 1 0x000A0200 }
    = some (0x000A02D3, false) := by decide

/-! CPS (95 V40 to V51, V55 to V62) -/

theorem test_cpsie_i_V40 : after 32 0xF1080080 State.reset = some (0x153, false) ∧ after 16 0xB662 State.reset = some (0x153, false)
    ∧ after 32 0xF3AF8440 State.reset = some (0x153, false) := by decide

theorem test_cpsie_to_user_V51 : after 32 0xF10A01D0 State.reset = some (0x010, false) := by decide

theorem test_cpsid_i_V42 : after 32 0xF10C0080 open0 = some (0x093, false) ∧ after 16 0xB672 open0 = some (0x093, false)
    ∧ after 32 0xF3AF8640 open0 = some (0x093, false) := by decide

theorem test_cpsid_illegal_mode_V46 : after 32 0xF10E009A open0 = some (0x093, true) := by decide

theorem test_cpsid_user_V47 : after 32 0xF3AF87F3 user = some (0x010, false) := by decide

theorem test_cps_system_V45 : after 32 0xF102001F State.reset = some (0x1DF, false) := by decide

theorem test_cps_reserved_V48 : after 32 0xF1020014 State.reset = some (0x1D3, true) := by decide

theorem test_cps_current_V49 : after 32 0xF3AF8113 State.reset = some (0x1D3, false) := by decide

/-- The clauses of 44 R191, each at a state where it applies (95 V48, V62, V55, V57, V44, V50, V59), and legal changes
(V56, V58, V60, V61). -/
theorem test_illegal_clauses_V55_V62 :
    illegalClauses referenceConfig referenceInputs 0b10011 0b10100 = [.notInTable]
    ∧ illegalClauses { referenceConfig with modeImplemented := { PerMode.all true with monitor := false } } referenceInputs
        0b10011 0b10110 = [.notImplemented]
    ∧ illegalClauses referenceConfig nonSecure 0b10011 0b10110 = [.higherLevel, .monitorFromNonSecure]
    ∧ illegalClauses { referenceConfig with el3UsingAArch64 := true, elSecure := perModeOf (defaultEL .secure true) }
        referenceInputs 0b10011 0b10110 = [.higherLevel, .monitorFromSecureEL1]
    ∧ illegalClauses referenceConfig referenceInputs 0b10011 0b11010 = [.toHyp]
    ∧ illegalClauses referenceConfig nonSecure 0b11010 0b10011 = [.fromHyp]
    ∧ illegalClauses referenceConfig { referenceInputs with hcrTGE := true, scrNS := true } 0b10110 0b10011 = [.tgeFromMonitor] := by
  decide

theorem test_legal_changes_V55_V62 : illegalModeChange referenceConfig nonSecure 0b10011 0b10111 = false
    ∧ illegalModeChange referenceConfig referenceInputs 0b10011 0b10110 = false
    ∧ illegalModeChange referenceConfig { referenceInputs with hcrTGE := true } 0b10110 0b10011 = false
    ∧ illegalModeChange referenceConfig { referenceInputs with scrNS := true } 0b10110 0b10011 = false := by decide

/-! SETEND and memory (95 V70 to V79) -/

theorem test_setend_be_V70 : after 32 0xF1010200 State.reset = some (0x3D3, false) ∧ after 16 0xB658 State.reset = some (0x3D3, false) := by
  decide

theorem test_setend_le_V71 : after 32 0xF1010000 (stateWith { p0 with e := true }) = some (0x1D3, false)
    ∧ after 16 0xB650 (stateWith { p0 with e := true }) = some (0x1D3, false) := by decide

theorem test_setend_user_V72 : after 16 0xB658 user = some (0x210, false) := by decide

theorem test_setend_absent_order_V73 : exec .setendBeA1 (oneOrder false) = .refused .absentByteOrder := rfl

theorem test_ldr_little_endian_V76 : reads 32 0xE5910000 bytesAt 0 = some 0x44332211 := by decide

theorem test_ldr_big_endian_V77 : reads 32 0xE5910000 { bytesAt with pstate := { p0 with e := true } } 0 = some 0x11223344 := by
  decide

theorem test_store_big_endian_V78 :
    (({ State.reset with pstate := { p0 with e := true } } : State).memWrite 0x100 4 0xAABBCCDD).mem
      = [(0x100, 0xAA), (0x101, 0xBB), (0x102, 0xCC), (0x103, 0xDD)] := by decide

theorem test_mixed_orders_V79 :
    (({ State.reset.memWrite 0x100 4 0xAABBCCDD with pstate := { p0 with e := true } } : State).memRead 0x100 4) = 0xDDCCBBAA := by
  decide

/-! SETPAN (95 V85 to V88) -/

theorem test_setpan_1_V85 : after 32 0xF1100200 State.reset = some (0x004001D3, false)
    ∧ after 16 0xB618 State.reset = some (0x004001D3, false) := by decide

theorem test_setpan_0_V86 : after 32 0xF1100000 (stateWith { p0 with pan := true }) = some (0x000001D3, false)
    ∧ after 16 0xB610 (stateWith { p0 with pan := true }) = some (0x000001D3, false) := by decide

theorem test_setpan_user_V87 : after 32 0xF1100000 { user with pstate := { user.pstate with pan := true } } = some (0x00400010, false) := by
  decide

theorem test_setpan_absent_V88 : exec .setpan1A1 (withCfg noFeatures) = .next ((withCfg noFeatures).takeException .undefinedInstruction) := by
  rfl

/-! Exceptions (95 V90 to V94) -/

/-- The state before V90. -/
abbrev v90 : State := { stateWith { p0 with n := true, c := true, ge := 0b0101, a := false, i := false, f := false } with
  inp := { referenceInputs with sctlrTE := true, sctlrEE := true } }

theorem test_entry_irq_V90 : cpsrRead v90.cfg v90.pstate = 0xA0050013
    ∧ cpsrRead v90.cfg (v90.enterException .irq .irq).pstate = 0xA0050392
    ∧ (v90.enterException .irq .irq).pstate.t = true ∧ (v90.enterException .irq .irq).spsr.get .irq = v90.pstate := by decide

theorem test_entry_hyp_V91 :
    let p := (({ stateWith { p0 with t := true, e := true, it := 0b00000110 } with
      inp := { referenceInputs with sctlrTE := true, sctlrEE := true } } : State).enterException .irq .hyp).pstate
    p.t = false ∧ p.e = false ∧ p.it = 0 ∧ p.m = 0b11010 := by decide

/-- What a step leaves of PSTATE and the Undefined mode SPSR. -/
def pstateAndSpsr (s : State) : Option (PState × PState) :=
  match step s with
  | .next t => some (t.pstate, t.spsr.undefined)
  | .fault _ | .refused _ => none

theorem test_illegal_state_V92 : pstateAndSpsr { open0 with pstate := { open0.pstate with il := true } }
    = some ({ open0.pstate with m := 0b11011, i := true }, { open0.pstate with il := true }) := by decide

theorem test_entry_clears_uinj_V94 : pstateAndSpsr { open0 with pstate := { open0.pstate with uinj := true } }
    = some ({ open0.pstate with m := 0b11011, i := true }, { open0.pstate with uinj := true }) := by decide

/-- HCR.TGE moves the target of the exceptions of GK18 and of no other (60_exceptions.md R220, R230). -/
theorem test_tge_targets :
    let inp : Inputs := { referenceInputs with hcrTGE := true, security := .nonSecure }
    exceptionTarget referenceConfig inp .illegalState 0b10011 = .hyp
      ∧ exceptionTarget referenceConfig inp .undefinedInstruction 0b10011 = .hyp
      ∧ exceptionTarget referenceConfig inp .irq 0b10011 = .irq := by decide

/-- The J slot of an SPSR is 0 after a reset whose draw has it at 1 (92 D9). -/
theorem test_reset_spsr_j :
    ((State.warmReset referenceConfig referenceInputs { zeroDraws with spsr := PerMode.all { PState.zero with j := true } }).spsr.get
      .irq).j = false := by decide

/-! Witnesses: hypotheses that can be met -/

theorem witness_round_trip : (Instr.ldrA1 14 true 1 0 0xFFF).wellFormed = true ∧ (Instr.msrRegT1 1 14).wellFormed = true := by decide

theorem witness_decoded_bytes : decodeBytes true [0xAF, 0xF3, 0x13, 0x81, 0x07] = .ok (.cpsT2 0b10011, [0x07]) := by decide

/-- The configurations the clauses of the reset statements speak of. -/
theorem witness_reset_configs : referenceConfig.bothEndian = true ∧ referenceConfig.haveUINJ = true ∧ referenceConfig.haveDIT = true
    ∧ referenceConfig.haveSSBS = true ∧ referenceConfig.havePAN = true ∧ (oneOrder true).cfg.bothEndian = false
    ∧ zeroDraws.mem.wf ∧ State.reset.cfg = referenceConfig := by decide

theorem witness_reset_coherent : configOk referenceConfig ∧ configOk { referenceConfig with highestELIsEL2 := true } :=
  ⟨by decide, by decide⟩

/-- A state that meets the invariant and steps (StepKeepsInvariant, StepKeepsConfig). -/
theorem witness_step : Inv (State.reset.withFetchWord 32 0xF1010200)
    ∧ ∃ t, step (State.reset.withFetchWord 32 0xF1010200) = .next t :=
  ⟨by decide, exists_of_answers (by decide)⟩

/-- StepKeepsConfig: an environment entry with other inputs in which every exception arrives. -/
theorem witness_environment :
    let s : State := { State.reset.withFetchWord 32 0xF1010200 with env := [⟨nonSecure, ⟨true, true, true⟩⟩] }
    s.env = ⟨nonSecure, ⟨true, true, true⟩⟩ :: [] ∧ ∃ t, step s = .next t :=
  ⟨rfl, exists_of_answers (by decide)⟩

/-- A state that meets the invariant and returns from an exception. -/
theorem witness_return : Inv (State.reset.takeException .irq)
    ∧ ∃ t, (State.reset.takeException .irq).exceptionReturn = .next t :=
  ⟨by decide, exists_of_answers (by decide)⟩

/-- ReturnRestoresPstate, to the same level and to a lower one. -/
theorem witness_return_permitted : (Inv State.reset ∧ Inv user)
    ∧ (State.reset.enterException .irq .irq).returnPermitted (savedPState p0) = true
    ∧ (user.enterException .undefinedInstruction .undefined).returnPermitted (savedPState user.pstate) = true :=
  ⟨⟨by decide, by decide⟩, by decide, by decide⟩

/-- An instruction that answers a next state: no store, no other mode, no hidden field, MSR, CPS, SETPAN and MRS frames. -/
theorem witness_exec_next : (∃ t, exec .setendBeA1 State.reset = .next t) ∧ isMsr .setendBeA1 = false ∧ isCps .setendBeA1 = false
    ∧ (∃ t, exec (.msrRegA1 14 15 0) State.reset = .next t) ∧ isMsr (.msrRegA1 14 15 0) = true
    ∧ (∃ t, exec (.cpsA1 31) State.reset = .next t) ∧ isCps (.cpsA1 31) = true
    ∧ (∃ t, exec .setpan1T1 State.reset = .next t) ∧ isSetpan .setpan1T1 = true
    ∧ (∃ t, exec (.mrsA1 14 0) State.reset = .next t) ∧ (∃ t, exec (.mrsT1 0) State.reset = .next t) :=
  ⟨⟨_, rfl⟩, rfl, rfl, ⟨_, rfl⟩, rfl, ⟨_, rfl⟩, rfl, ⟨_, rfl⟩, rfl, ⟨_, rfl⟩, ⟨_, rfl⟩⟩

/-- PL0 and above it; a condition that passes; outside an IT block; a reserved bit. -/
theorem witness_privilege : State.reset.pl0 = false ∧ user.pl0 = true ∧ conditionPassed 14 p0 = true ∧ itPassed p0 = true
    ∧ p0.it = 0 ∧ reservedBit referenceConfig 20 = true ∧ reservedBit noFeatures 23 = true ∧ apsrBit 4 = false ∧ apsrBit 26 = false
    ∧ apsrBit 20 = false := by decide

/-- UserModeIsConfined: an instruction at PL0 that answers a next state. -/
theorem witness_user_step : user.pl0 = true ∧ ∃ t, exec (.msrImmA1 14 15 0xFF) user = .next t :=
  ⟨by decide, ⟨_, rfl⟩⟩

/-- HiddenFieldsHaveNoCpsrAccess: two states outside an IT block, above PL0, that differ in IL, T, J and UINJ. -/
theorem witness_hidden : itPassed p0 = true ∧ itPassed { p0 with il := true, j := true, t := true, uinj := true, it := 0 } = true
    ∧ conditionPassed 14 p0 = true ∧ State.reset.pl0 = false := by
  decide

/-- ExecutionStateBit above PL0, for a register and for a constant. -/
theorem witness_execution_state_bit : configOk State.reset.cfg ∧ bit p0.m 4 = true ∧ conditionPassed 14 p0 = true
    ∧ itPassed p0 = true ∧ bit (0b0001 : BitVec 4) 0 = true ∧ bit (State.reset.readReg 0) 4 = false
    ∧ bit (expandImm12 0x003) 4 = false ∧ State.reset.pl0 = false := ⟨by decide, by decide⟩

/-- MsrIgnoresReservedBits: two values that differ in every reserved bit and in no other. -/
theorem witness_reserved_bits : (0 : Word) ≠ 0x07F0FC20 &&& 0x0710FC20
    ∧ ∀ k < 32, reservedBit referenceConfig k = false → bit (0 : Word) k = bit (0x0710FC20 : Word) k := by decide

/-- MsrThenMrsReadsBack: from Supervisor to System. -/
theorem witness_read_back :
    let s : State := { State.reset with x := State.reset.x.set 0 0xF8EF03DF }
    let t : State := (s.cpsrWrite 0xF8EF03DF 15).advance 4
    configOk s.cfg ∧ s.pl0 = false ∧ illegalModeChange s.cfg s.inp s.pstate.m (field (s.readReg 0) 0 5) = false
      ∧ bit s.pstate.m 4 = true ∧ exec (.msrRegA1 0b1110 0b1111 0) s = .next t ∧ t.pl0 = false
      ∧ (∃ u, exec (.mrsA1 0b1110 1) t = .next u) ∧ reservedBit s.cfg 9 = false ∧ s.cfg.bothEndian = true :=
  ⟨by decide, by decide, by decide, by decide, rfl, by decide, ⟨_, rfl⟩, by decide, by decide⟩

/-- UserModeWritesOfModeIgnored and CpsAtUserDoesNothing, an A32 form and a T32 form outside an IT block. -/
theorem witness_user_forms : isMsr (.msrImmA1 14 1 0xD3) = true ∧ isCps (.cpsT2 0b10011) = true ∧ user.pl0 = true
    ∧ isT32Unconditional (.cpsT2 0b10011) = true ∧ user.pstate.it = 0 := by decide

/-- RefusedInsideItBlock: a state inside an IT block and an instruction refused there. -/
theorem witness_it_block : exec (.cpsT2 0b10011) inIt = .refused .insideItBlock ∧ inIt.pstate.it ≠ 0 :=
  ⟨rfl, by decide⟩

/-- IllegalChangesAreTheListed: a value that is not the current one; the clauses are in test_illegal_clauses_V55_V62. -/
theorem witness_other_mode : (0b11010 : BitVec 5) ≠ p0.m := by decide

/-- HypAndMonitorAreClosed: a Non-secure state in Monitor mode, and a CPS that stays there. -/
theorem witness_monitor : (inMode nonSecure 0b10110).inp.security = .nonSecure
    ∧ (∃ t, exec (.cpsA1 0b10110) (inMode nonSecure 0b10110) = .next t ∧ t.pstate.m = modeCode t.cfg .monitor) :=
  ⟨rfl, ⟨_, rfl, rfl⟩⟩

/-- IllegalChangeSetsIL: to Hyp from Supervisor, by CPS, and by MSR of values that agree from bit 5 up, one a rotated constant. -/
theorem witness_illegal_change : State.reset.pl0 = false
    ∧ illegalModeChange State.reset.cfg State.reset.inp p0.m 0b11010 = true ∧ p0.it = 0
    ∧ bit (0b0001 : BitVec 4) 0 = true ∧ field (0xDA : Word) 0 5 = (0b11010 : BitVec 5) ∧ field (0xD3 : Word) 0 5 = p0.m
    ∧ (∀ k < 32, 5 ≤ k → bit (0xD3 : Word) k = bit (0xDA : Word) k)
    ∧ conditionPassed 14 p0 = true ∧ itPassed p0 = true ∧ expandImm12 0x0DA = 0xDA := by decide

/-- IllegalStateTakesException and UinjTakesUndefinedInstruction: the bit set, nothing deliverable. -/
theorem witness_illegal_state :
    let s : State := stateWith { p0 with il := true }
    let u : State := stateWith { p0 with uinj := true }
    (s.pstate.il = true ∧ s.deliverable = [])
      ∧ (u.cfg.haveUINJ = true ∧ u.pstate.uinj = true ∧ u.pstate.il = false ∧ u.deliverable = []) := by decide

/-- The entry statements: PL1 targets, a mode that is not the target, the features present, one byte order (configOk is met in
witness_reset_coherent). -/
theorem witness_entry_targets : isPL1NonMonitor .system = true ∧ isPL1NonMonitor .fiq = true ∧ Mode.user ≠ Mode.monitor
    ∧ p0.j = false ∧ State.reset.cfg.haveUINJ = true ∧ (oneOrder true).cfg.bothEndian = false
    ∧ State.reset.cfg.havePAN = true ∧ State.reset.cfg.haveSSBS = true ∧ State.reset.cfg.bothEndian = true := by decide

/-- MaskedExceptionsStayPending: everything pending, every mask set, and a step. -/
theorem witness_masked :
    let s : State := { State.reset.withFetchWord 32 0xF1010200 with pending := ⟨true, true, true⟩ }
    (s.pending.serror = true → s.pstate.a = true) ∧ (s.pending.irq = true → s.pstate.i = true)
      ∧ (s.pending.fiq = true → s.pstate.f = true) ∧ answers (step s) = true := by decide

/-- S0 with everything pending and only IRQ masked, and SETEND BE at the pc. -/
abbrev irqMasked : State :=
  { State.reset.withFetchWord 32 0xF1010200 with
    pending := ⟨true, true, true⟩
    pstate := { p0 with a := false, f := false } }

/-- MaskedExceptionsStayPending: a masked exception pending beside unmasked ones, and a step, whatever the draw chooses. -/
theorem witness_masked_beside_unmasked : irqMasked.pstate.i = true ∧ irqMasked.pending.irq = true
    ∧ irqMasked.deliverable = [.serror, .fiq] ∧ ∃ t, step irqMasked = .next t := by
  refine ⟨by decide, by decide, by decide, ?_⟩
  unfold step
  rw [State.admission_choice (by decide)]
  cases asyncChoice irqMasked.deliverable irqMasked.freeWord with
  | some exc => exact ⟨_, rfl⟩
  | none => exact exists_of_answers (by decide)

/-- UnmaskedExceptionsMayBeTaken: three exceptions deliverable. -/
theorem witness_unmasked : ({ open0 with pending := ⟨true, true, true⟩ } : State).deliverable = [.serror, .irq, .fiq]
    ∧ asyncChoice [.serror, .irq, .fiq] 2 = some .fiq ∧ asyncChoice [.serror, .irq, .fiq] 3 = none := by decide

/-- FetchWindow: a change of mode that changes the context, an open window, a closed one, an entry that synchronizes. -/
theorem witness_fetch_window :
    let t : State := State.reset.cpsMode 0b10000
    t.context ≠ State.reset.context ∧ t.stale = [State.reset.context] ∧ State.reset.stale = []
      ∧ State.reset.cfg.contextSync.exceptionEntry = true := by decide

/-- The SETEND statements: both byte orders, one byte order each way, SETEND disabled. -/
theorem witness_setend_configs : (State.reset.cfg.bothEndian = true ∧ State.reset.cfg.setendDisabled = false)
    ∧ noSetend.cfg.setendDisabled = true ∧ isSetend .setendLeT1 = true ∧ noSetend.pstate.it = 0
    ∧ (oneOrder true).cfg.setendDisabled = false ∧ (oneOrder true).cfg.bothEndian = false
    ∧ (oneOrder true).cfg.onlyEndianness = true ∧ (oneOrder false).cfg.onlyEndianness = false := by decide

/-- The SETPAN statements: FEAT_PAN present above and at PL0, and absent. -/
theorem witness_setpan_configs : (State.reset.cfg.havePAN = true ∧ State.reset.pl0 = false) ∧ (user.cfg.havePAN = true ∧ user.pl0 = true)
    ∧ (withCfg noFeatures).cfg.havePAN = false ∧ isSetpan .setpan0A1 = true ∧ p0.it = 0 := by decide

/-- LdrLoadsInCurrentByteOrder: an aligned address, and a misaligned one under each policy that goes on; at the last word too. -/
theorem witness_ldr_addresses :
    (ldrAddress bytesAt true 1 0).toNat % 4 = 0 ∧ (ldrAddress State.reset false 0 4) = 0xFFFFFFFC
    ∧ ((oddAt .bytewise).cfg.alignPolicy = .bytewise ∧ ldrAddress (oddAt .bytewise) true 1 0 = 0x102)
    ∧ ((oddAt .roundDown).cfg.alignPolicy = .roundDown
      ∧ (0x100 : Word).toNat = (ldrAddress (oddAt .roundDown) true 1 0).toNat - (ldrAddress (oddAt .roundDown) true 1 0).toNat % 4)
    ∧ conditionPassed 14 p0 = true := by decide

/-- LdrFrame and LdrStopsOnlyMisaligned: a load that completes and one that stops. -/
theorem witness_ldr_outcomes : (∃ t, exec (.ldrA1 14 true 1 0 0) bytesAt = .next t)
    ∧ exec (.ldrA1 14 true 1 0 0) (oddAt .stop) = .fault .misalignedAccess
    ∧ (oddAt .stop).cfg.alignPolicy = .stop ∧ (ldrAddress (oddAt .stop) true 1 0).toNat % 4 ≠ 0 :=
  ⟨exists_of_answers (by decide), rfl, rfl, by decide⟩

/-- LoadAfterStore and StoreFrame: a store that wraps at the top of the space, and an address outside it. -/
theorem witness_store : (4 ≤ 2 ^ 32) ∧ State.reset.mem.wf
    ∧ ∀ j < 4, (2 : Nat) ≠ ((0xFFFFFFFE : Word) + BitVec.ofNat 32 j).toNat := by decide

/-- S0 with the word of 95 P2 at the pc: LDR r0, [r1]. -/
abbrev ldrAtPc (x1 : Word) : State :=
  { State.reset with
    mem := [(0x2, 0x91), (0x3, 0xE5)]
    x := State.reset.x.set 1 x1 }

/-- An IT block with SETEND BE (T32) at the pc. -/
abbrev setendInIt : State := { inIt with mem := [(0x0, 0x58), (0x1, 0xB6)] }

/-- StepRunsDecodedInstruction: an instruction that goes on, one that faults, one that is refused. -/
theorem witness_step_runs : (ldrAtPc 0x100).deliverable = [] ∧ (ldrAtPc 0x100).pstate.il = false
    ∧ ((ldrAtPc 0x100).cfg.haveUINJ && (ldrAtPc 0x100).pstate.uinj) = false ∧ (ldrAtPc 0x100).fetchAddress = some 0
    ∧ decodeBytes (ldrAtPc 0x100).pstate.t ((ldrAtPc 0x100).mem.readBytes 0 4) = .ok (.ldrA1 14 true 1 0 0, [])
    ∧ (ldrAtPc 0x100).pstate.it = 0 ∧ (ldrAtPc 0x100).stale = [] := by decide

theorem witness_step_outcomes : (∃ t, exec (.ldrA1 14 true 1 0 0) (ldrAtPc 0x100).recordFetch = .next t)
    ∧ exec (.ldrA1 14 true 1 0 0) (ldrAtPc 0x102).recordFetch = .fault .misalignedAccess
    ∧ decodeBytes setendInIt.pstate.t (setendInIt.mem.readBytes 0 4) = .ok (.setendBeT1, [0, 0])
    ∧ exec .setendBeT1 setendInIt.recordFetch = .refused .insideItBlock :=
  ⟨exists_of_answers (by decide), rfl, by decide, rfl⟩

/-- StepRefusesUndecodable: the empty memory of State.reset. -/
theorem witness_undecodable : State.reset.deliverable = [] ∧ p0.il = false
    ∧ (State.reset.cfg.haveUINJ && p0.uinj) = false ∧ State.reset.fetchAddress = some 0
    ∧ decodeBytes p0.t (State.reset.mem.readBytes 0 4) = .error .notInSpec := by decide

end Sys2Proof.Tests
end

section
/-! SUPPORT. PSTATE after a Warm reset: both forms of reset give `resetPState` of the machine's configuration, and its fields
have the values 10_state.md R50 states. -/

namespace Sys2Proof.Machine

/-! The two forms of reset -/

@[simp] theorem State.warmReset_pstate (c : Config) (i : Inputs) (d : ResetDraws) :
    (State.warmReset c i d).pstate = resetPState c d := rfl

@[simp] theorem State.afterWarmReset_pstate (s : State) (d : ResetDraws) :
    (s.afterWarmReset d).pstate = resetPState s.cfg d := rfl

/-! The fields whose reset value depends on a feature -/

theorem resetPState_e_of_bothEndian {c : Config} (d : ResetDraws) (h : c.bothEndian = true) :
    (resetPState c d).e = c.resetEE := if_pos h

theorem resetPState_ssbs_of_haveSSBS {c : Config} (d : ResetDraws) (h : c.haveSSBS = true) :
    (resetPState c d).ssbs = c.resetSSBS := if_pos h

/-- Settles O5: both forms of reset give `resetPState`, and R50 holds of it field by field. E and SSBS turn on their feature;
UINJ and DIT are 0 whether or not theirs is implemented. -/
theorem warmResetStatedValues : Obligations.WarmResetStatedValues := by
  intro c i d stated
  have hReset : stated (resetPState c d) := by
    refine ⟨?j, ?t, ?it, ?e, ?il, ?a, ?i, ?f, ?m, ?uinj, ?dit, ?ssbs⟩
    case e => exact resetPState_e_of_bothEndian d
    case ssbs => exact resetPState_ssbs_of_haveSSBS d
    case uinj | dit => exact fun _ => rfl
    case j | t | it | il | a | i | f | m => rfl
  refine ⟨?powerUp, fun s hcfg => ?running⟩
  case powerUp => rwa [State.warmReset_pstate]
  case running => rwa [State.afterWarmReset_pstate, hcfg]

end Sys2Proof.Machine
end

section
/-! SUPPORT. CPS above PL0: CPS #mode is CPSIE or CPSID naming no mask, so one law of CPSOp (41_cps.md R153) says what all eight
forms write. -/

namespace Sys2Proof.Machine

open Sys2Proof.Safety

/-- Outside an IT block a T32 form runs. -/
theorem outsideItBlock_of_it_zero {s : State} (h : s.pstate.it = 0) (run : Host.Outcome State Fault Refusal) :
    outsideItBlock s run = run := if_pos h

/-- CPS #mode is CPSOp with no mask named. -/
theorem State.cpsMode_eq_cpsMasks (s : State) (b : Bool) (mode : BitVec 5) :
    s.cpsMode mode = s.cpsMasks b ⟨false, false, false⟩ (some mode) := rfl

/-- A write of M has the effect on M and IL that 44 R194 and R195 state. -/
theorem State.writeMode_modeWritten (s : State) (m : BitVec 5) : modeWritten s (s.writeMode m) m := by
  rcases s.writeMode_cases m with ⟨hillegal, he⟩ | ⟨hlegal, he⟩
  · rw [he, modeWritten, if_pos hillegal]
    exact ⟨rfl, rfl⟩
  · rw [he, modeWritten, if_neg (Bool.eq_false_iff.1 hlegal)]
    exact ⟨rfl, rfl⟩

/-- A write of M changes no field of PSTATE but M and IL. -/
theorem State.writeMode_pstate_frame (s : State) (m : BitVec 5) :
    (s.writeMode m).pstate = { s.pstate with m := (s.writeMode m).pstate.m, il := (s.writeMode m).pstate.il } := by
  rcases s.writeMode_cases m with ⟨-, he⟩ | ⟨-, he⟩
  · rw [he]; rfl
  · rw [he]; rfl

/-- Above PL0 CPSOp without a mode operand writes the masks (41_cps.md R153). -/
theorem State.cpsMasks_none_of_privileged {s : State} (h : s.pl0 = false) (b : Bool) (fl : IFlags) :
    s.cpsMasks b fl none = { s with pstate := setMasks b fl s.pstate } :=
  if_neg (Bool.eq_false_iff.1 h)

/-- Above PL0 CPSOp with a mode operand writes the masks, then M (41_cps.md R153). -/
theorem State.cpsMasks_some_of_privileged {s : State} (h : s.pl0 = false) (b : Bool) (fl : IFlags) (m : BitVec 5) :
    s.cpsMasks b fl (some m) = State.writeMode { s with pstate := setMasks b fl s.pstate } m :=
  if_neg (Bool.eq_false_iff.1 h)

/-- Above PL0 CPSOp writes the named masks, M and IL, and no other field of PSTATE. -/
theorem State.cpsMasks_masksWritten {s : State} (h : s.pl0 = false) (b : Bool) (fl : IFlags) (mode : Option (BitVec 5)) :
    masksWritten s (s.cpsMasks b fl mode) b fl mode := by
  cases mode with
  | none =>
    rw [State.cpsMasks_none_of_privileged h]
    exact ⟨rfl, rfl, rfl⟩
  | some m =>
    rw [State.cpsMasks_some_of_privileged h]
    let masked : State := { s with pstate := setMasks b fl s.pstate }
    exact ⟨masked.writeMode_pstate_frame m, masked.writeMode_modeWritten m⟩

/-- An instruction that runs CPSOp above PL0 completes with the pc past it and the effect of CPSOp in PSTATE. -/
theorem exec_masksWritten_of_cpsMasks {i : Instr} {s : State} {b : Bool} {fl : IFlags} {mode : Option (BitVec 5)} {n : Nat}
    (h : s.pl0 = false) (hi : exec i s = .next ((s.cpsMasks b fl mode).advance n)) :
    ∃ t, exec i s = .next t ∧ t.pc = s.pc + BitVec.ofNat 32 n ∧ masksWritten s t b fl mode :=
  ⟨_, hi, by rw [State.advance_pc, State.cpsMasks_pc], State.cpsMasks_masksWritten h b fl mode⟩

/-- Settles O28: each of the six forms runs CPSOp with its bit and operands, the T32 forms because IT is 0. -/
theorem cpsieAndCpsidWriteMasks : Obligations.CpsieAndCpsidWriteMasks := by
  intro s fl mode h
  refine ⟨?ieA1, ?idA1, fun hit => ⟨?ieT2, ?idT2, ?ieT1, ?idT1⟩⟩
  case ieA1 | idA1 => exact exec_masksWritten_of_cpsMasks h rfl
  case ieT2 | idT2 | ieT1 | idT1 => exact exec_masksWritten_of_cpsMasks h (outsideItBlock_of_it_zero hit _)

/-- Settles O29: both forms run CPSOp with no mask named, so every field but M and IL is as it was. -/
theorem cpsChangesModeOnly : Obligations.CpsChangesModeOnly := by
  intro s mode h
  have hCps {i : Instr} (hi : exec i s = .next ((s.cpsMode mode).advance 4)) :
      ∃ t, exec i s = .next t ∧ t.pc = s.pc + 4
        ∧ t.pstate = { s.pstate with m := t.pstate.m, il := t.pstate.il } ∧ modeWritten s t mode := by
    rw [State.cpsMode_eq_cpsMasks s false] at hi
    exact exec_masksWritten_of_cpsMasks h hi
  exact ⟨hCps rfl, fun hit => hCps (outsideItBlock_of_it_zero hit _)⟩

end Sys2Proof.Machine
end

section
/-! SUPPORT. SETEND with both byte orders: `setend` reads neither the mode nor the Security state, so its result in one lemma
serves all four forms in every mode (42_setend.md R170 to R172). -/

namespace Sys2Proof.Machine

/-- SETEND that is not disabled writes E where both byte orders exist. -/
theorem setend_of_bothEndian {s : State} (hboth : s.cfg.bothEndian = true) (henabled : s.cfg.setendDisabled = false)
    (e : Bool) (n : Nat) : setend e n s = .next ((s.setE e).advance n) := by
  have hnotAbsent : ¬ (s.cfg.bothEndian = false ∧ e ≠ s.cfg.onlyEndianness) :=
    fun ⟨hone, _⟩ => Bool.eq_false_iff.1 hone hboth
  rw [setend, if_neg (Bool.eq_false_iff.1 henabled), if_neg hnotAbsent]

/-- With both byte orders the E field becomes the order named. -/
theorem State.setE_pstate_of_bothEndian {s : State} (h : s.cfg.bothEndian = true) (e : Bool) :
    (s.setE e).pstate = { s.pstate with e := e } := by
  rw [State.setE_pstate, if_pos h]

/-- Settles O45: each form runs `setend` with its byte order and length, the T32 forms because IT is 0. -/
theorem setendSetsE : Obligations.SetendSetsE := by
  intro s hboth henabled
  have hSetend {i : Instr} {e : Bool} {n : Nat} (hi : exec i s = setend e n s) :
      ∃ t, exec i s = .next t ∧ t.pc = s.pc + BitVec.ofNat 32 n ∧ t.pstate = { s.pstate with e := e } := by
    refine ⟨(s.setE e).advance n, ?runs, rfl, ?pstate⟩
    case runs => rw [hi, setend_of_bothEndian hboth henabled]
    case pstate => rw [State.advance_pstate, State.setE_pstate_of_bothEndian hboth]
  refine ⟨?beA1, ?leA1, fun hit => ⟨?beT1, ?leT1⟩⟩
  case beA1 | leA1 => exact hSetend rfl
  case beT1 | leT1 => exact hSetend (outsideItBlock_of_it_zero hit _)

end Sys2Proof.Machine
end

section
/-! SUPPORT. SETPAN with FEAT_PAN above PL0: `setpan` writes PAN and moves the pc, so one argument serves all four forms
(43_setpan.md R180, R181). -/

namespace Sys2Proof.Machine

/-- SETPAN takes no exception where FEAT_PAN is implemented. -/
theorem setpan_of_havePAN {s : State} (h : s.cfg.havePAN = true) (b : Bool) (n : Nat) :
    setpan b n s = .next ((s.setPan b).advance n) := by
  rw [setpan, if_pos h]

/-- Above PL0 the PAN field becomes the value named. -/
theorem State.setPan_pstate_of_privileged {s : State} (h : s.pl0 = false) (b : Bool) :
    (s.setPan b).pstate = { s.pstate with pan := b } := by
  rw [State.setPan_pstate, if_neg (Bool.eq_false_iff.1 h)]

/-- Settles O47: each form runs `setpan` with its value and length, the T32 forms because IT is 0. -/
theorem setpanSetsPan : Obligations.SetpanSetsPan := by
  intro s hpan hpriv
  have hSetpan {i : Instr} {b : Bool} {n : Nat} (hi : exec i s = setpan b n s) :
      ∃ t, exec i s = .next t ∧ t.pc = s.pc + BitVec.ofNat 32 n ∧ t.pstate = { s.pstate with pan := b } := by
    refine ⟨(s.setPan b).advance n, ?runs, ?pc, ?pstate⟩
    case runs => rw [hi, setpan_of_havePAN hpan]
    case pc => rw [State.advance_pc, State.setPan_pc]
    case pstate => rw [State.advance_pstate, State.setPan_pstate_of_privileged hpriv]
  refine ⟨?pan0A1, ?pan1A1, fun hit => ⟨?pan0T1, ?pan1T1⟩⟩
  case pan0A1 | pan1A1 => exact hSetpan rfl
  case pan0T1 | pan1T1 => exact hSetpan (outsideItBlock_of_it_zero hit _)

end Sys2Proof.Machine
end

section
/-! SUPPORT. CPSOp and the CPSR write where they leave M: at PL0 a write of M is ignored (44 R197), and above PL0 an illegal change
only sets IL beside the other fields (44 R194, R195). -/

namespace Sys2Proof.Machine

open Sys2Proof.Safety

/-! Executing at PL0 -/

/-- Every CPS, a T32 form outside an IT block, completes by running CPSOp. -/
theorem exec_cps_eq_cpsMasks {i : Instr} {s : State} (hi : isCps i = true)
    (hit : isT32Unconditional i = true → s.pstate.it = 0) :
    ∃ b fl mode, exec i s = .next ((s.cpsMasks b fl mode).advance (size i)) := by
  cases i with
  | cpsieA1 fl mode => exact ⟨false, fl, mode, rfl⟩
  | cpsidA1 fl mode => exact ⟨true, fl, mode, rfl⟩
  | cpsA1 mode => exact ⟨false, ⟨false, false, false⟩, some mode, rfl⟩
  | cpsieT1 fl => exact ⟨false, fl, none, outsideItBlock_of_it_zero (hit rfl) _⟩
  | cpsidT1 fl => exact ⟨true, fl, none, outsideItBlock_of_it_zero (hit rfl) _⟩
  | cpsieT2 fl mode => exact ⟨false, fl, mode, outsideItBlock_of_it_zero (hit rfl) _⟩
  | cpsidT2 fl mode => exact ⟨true, fl, mode, outsideItBlock_of_it_zero (hit rfl) _⟩
  | cpsT2 mode => exact ⟨false, ⟨false, false, false⟩, some mode, outsideItBlock_of_it_zero (hit rfl) _⟩
  | _ => cases hi

/-- Every MSR completes: it runs the CPSR write where its condition passes, and else only moves the pc. -/
theorem exec_msr_eq_cpsrWrite {i : Instr} (s : State) (hi : isMsr i = true) :
    ∃ (passed : Bool) (v : Word) (mask : BitVec 4),
      exec i s = .next ((if passed then s.cpsrWrite v mask else s).advance 4) := by
  cases i with
  | msrRegA1 cond mask rn => exact ⟨conditionPassed cond s.pstate, s.readReg rn, mask, rfl⟩
  | msrImmA1 cond mask imm12 => exact ⟨conditionPassed cond s.pstate, expandImm12 imm12, mask, rfl⟩
  | msrRegT1 mask rn => exact ⟨itPassed s.pstate, s.readReg rn, mask, rfl⟩
  | _ => cases hi

/-- At PL0 CPSOp has no effect (41_cps.md R154). -/
theorem State.cpsMasks_of_user {s : State} (h : s.pl0 = true) (b : Bool) (fl : IFlags) (mode : Option (BitVec 5)) :
    s.cpsMasks b fl mode = s := if_pos h

/-- At PL0 the CPSR write does not reach M, so it sets no IL either. -/
theorem State.cpsrWrite_modeKept_of_user {s : State} (h : s.pl0 = true) (v : Word) (mask : BitVec 4) :
    modeKept s (s.cpsrWrite v mask) := by
  have hNoMode : ¬ (laneC mask && !s.pl0) = true := by simp [h]
  rw [State.cpsrWrite_eq, if_neg hNoMode]
  exact ⟨rfl, rfl⟩

/-- Settles O27: at PL0 CPSOp does nothing and the CPSR write keeps M and IL, whether or not the condition passes. -/
theorem userModeWritesOfModeIgnored : Obligations.UserModeWritesOfModeIgnored := by
  rintro i s (hMsr | hCps) hpl hit
  · obtain ⟨passed, v, mask, hexec⟩ := exec_msr_eq_cpsrWrite s hMsr
    refine ⟨_, hexec, ?_⟩
    cases passed with
    | true => exact State.cpsrWrite_modeKept_of_user hpl v mask
    | false => exact ⟨rfl, rfl⟩
  · obtain ⟨b, fl, mode, hexec⟩ := exec_cps_eq_cpsMasks hCps hit
    rw [State.cpsMasks_of_user hpl] at hexec
    exact ⟨_, hexec, rfl, rfl⟩

/-! Illegal changes above PL0 -/

/-- An illegal change of M only sets IL (44 R194). -/
theorem State.writeMode_of_illegal {s : State} {new : BitVec 5}
    (h : illegalModeChange s.cfg s.inp s.pstate.m new = true) : s.writeMode new = s.setIL := if_pos h

/-- CPS #mode naming an illegal change only sets IL. -/
theorem State.cpsMode_pstate_of_illegal {s : State} {new : BitVec 5} (hpriv : s.pl0 = false)
    (hill : illegalModeChange s.cfg s.inp s.pstate.m new = true) :
    (s.cpsMode new).pstate = { s.pstate with il := true } := by
  rw [State.cpsMode_pstate, if_neg (Bool.eq_false_iff.1 hpriv), if_pos hill]

/-- CPSOp naming an illegal change writes PSTATE as it does naming the current mode, with IL = 1: both write the same masks
before M. -/
theorem State.cpsMasks_pstate_of_illegal {s : State} {new : BitVec 5} (hpriv : s.pl0 = false)
    (hill : illegalModeChange s.cfg s.inp s.pstate.m new = true) (b : Bool) (fl : IFlags) :
    (s.cpsMasks b fl (some new)).pstate
      = { (s.cpsMasks b fl (some s.pstate.m)).pstate with il := true, m := s.pstate.m } := by
  let masked : State := { s with pstate := setMasks b fl s.pstate }
  have hNew : s.cpsMasks b fl (some new) = masked.setIL :=
    (State.cpsMasks_some_of_privileged hpriv b fl new).trans (State.writeMode_of_illegal hill)
  have hCur : s.cpsMasks b fl (some s.pstate.m) = masked :=
    (State.cpsMasks_some_of_privileged hpriv b fl s.pstate.m).trans masked.writeMode_self
  rw [hNew, hCur]
  rfl

/-- The fields other than M that a CPSR write sets depend on no bit of the value below bit 5. -/
theorem cpsrWriteFields_congr {v w : Word} (h : ∀ k < 32, 5 ≤ k → bit w k = bit v k) (c : Config) (privileged : Bool)
    (mask : BitVec 4) (p : PState) : cpsrWriteFields c privileged w mask p = cpsrWriteFields c privileged v mask p := by
  have hge : (field w 16 4 : BitVec 4) = field v 16 4 :=
    eq_of_bit fun j hj => by rw [bit_field, bit_field, h (16 + j) (by omega) (by omega)]
  simp only [cpsrWriteFields, hge, h 31, h 30, h 29, h 28, h 27, h 23, h 22, h 21, h 9, h 8, h 7, h 6, Nat.reduceLT,
    Nat.reduceLeDiff]

/-- A CPSR write with the c lane naming an illegal change writes PSTATE as a value that agrees with it from bit 5 up and names
the current mode does, with IL = 1. -/
theorem State.cpsrWrite_pstate_of_illegal {s : State} {v w : Word} {mask : BitVec 4} (hpriv : s.pl0 = false)
    (hmask : bit mask 0 = true) (hill : illegalModeChange s.cfg s.inp s.pstate.m (field v 0 5) = true)
    (hcur : field w 0 5 = s.pstate.m) (hagree : ∀ k < 32, 5 ≤ k → bit w k = bit v k) :
    (s.cpsrWrite v mask).pstate = { (s.cpsrWrite w mask).pstate with il := true, m := s.pstate.m } := by
  have hMode : (laneC mask && !s.pl0) = true := by simp [laneC, hmask, hpriv]
  have hLegal : ¬ illegalModeChange s.cfg s.inp s.pstate.m (field w 0 5) = true := by simp [hcur]
  rw [State.cpsrWrite_pstate, if_pos hMode, if_pos hill, State.cpsrWrite_pstate, if_pos hMode, if_neg hLegal,
    cpsrWriteFields_congr hagree]
  rfl

/-- PSTATE after a CPSR write does not depend on the general registers. -/
theorem State.cpsrWrite_writeReg_pstate (s : State) (r : Reg) (x v : Word) (mask : BitVec 4) :
    ((s.writeReg r x).cpsrWrite v mask).pstate = (s.cpsrWrite v mask).pstate := by
  rw [State.cpsrWrite_pstate, State.cpsrWrite_pstate]
  rfl

/-- An MSR (register) that passes leaves the PSTATE of the CPSR write of its operand, in both its forms. -/
theorem exec_msrReg_of_passed {i : Instr} {s : State} {passed : Bool} {mask : BitVec 4} {rn : Reg} {v : Word}
    (h : passed = true)
    (hi : exec i (s.writeReg rn v)
      = .next ((if passed then (s.writeReg rn v).cpsrWrite ((s.writeReg rn v).readReg rn) mask else s.writeReg rn v).advance 4)) :
    ∃ t, exec i (s.writeReg rn v) = .next t ∧ t.pstate = (s.cpsrWrite v mask).pstate := by
  refine ⟨_, hi, ?_⟩
  rw [if_pos h, State.advance_pstate, State.readReg_writeReg_same, State.cpsrWrite_writeReg_pstate]

/-- Settles O35: every form runs CPSOp or the CPSR write, and each of these differs from its run with the current mode by IL. -/
theorem illegalChangeSetsIL : Obligations.IllegalChangeSetsIL := by
  intro s new hpriv hill
  have hMode := State.cpsMode_pstate_of_illegal hpriv hill
  have hMasks := State.cpsMasks_pstate_of_illegal hpriv hill
  refine ⟨⟨_, rfl, hMode⟩, fun hit => ⟨_, outsideItBlock_of_it_zero hit _, hMode⟩, fun fl => ⟨?ieA1, ?idA1, ?t2⟩, ?msr⟩
  case ieA1 => exact ⟨_, _, rfl, rfl, hMasks false fl⟩
  case idA1 => exact ⟨_, _, rfl, rfl, hMasks true fl⟩
  case t2 =>
    intro hit
    have hRun := outsideItBlock_of_it_zero hit
    exact ⟨⟨_, _, hRun _, hRun _, hMasks false fl⟩, ⟨_, _, hRun _, hRun _, hMasks true fl⟩⟩
  case msr =>
    rintro cond mask rn v w hmask rfl hcur hagree
    have hWrite := State.cpsrWrite_pstate_of_illegal hpriv hmask hill hcur hagree
    refine ⟨fun hcond => ?a32, fun hcond => ?t32⟩
    case a32 =>
      have hReg (x : Word) := exec_msrReg_of_passed (i := .msrRegA1 cond mask rn) (v := x) hcond rfl
      obtain ⟨u, hu, hup⟩ := hReg w
      refine ⟨?reg, ?imm⟩
      case reg =>
        obtain ⟨t, ht, htp⟩ := hReg v
        exact ⟨t, u, ht, hu, by rw [htp, hup, hWrite]⟩
      case imm =>
        rintro imm12 rfl
        refine ⟨_, u, rfl, hu, ?_⟩
        rw [if_pos hcond, State.advance_pstate, hup, hWrite]
    case t32 =>
      have hReg (x : Word) := exec_msrReg_of_passed (i := .msrRegT1 mask rn) (v := x) hcond rfl
      obtain ⟨t, ht, htp⟩ := hReg v
      obtain ⟨u, hu, hup⟩ := hReg w
      exact ⟨t, u, ht, hu, by rw [htp, hup, hWrite]⟩

end Sys2Proof.Machine
end

section
/-! SUPPORT. PSTATE after an exception entry: the fields of `entryPState` that turn on the target mode or on a feature have the
values 60_exceptions.md R211 to R217 state. -/

namespace Sys2Proof.Machine

open Sys2Proof.Safety

/-- In a coherent configuration every mode's encoding has M[4] = 1. -/
theorem bit4_modeCode {c : Config} (h : configOk c) (md : Mode) : bit (modeCode c md) 4 = true :=
  bit4_of_modeOf h (modeOf_modeCode h md)

section
variable (c : Config) (inp : Inputs) (exc : ExcKind) (target : Mode) (old : PState)

theorem entryPState_t : (entryPState c inp exc target old).t = if target = .hyp then inp.hsctlrTE else inp.sctlrTE := by
  simp [entryPState]

theorem entryPState_e :
    (entryPState c inp exc target old).e =
      if c.bothEndian then (if target = .hyp then inp.hsctlrEE else inp.sctlrEE) else old.e := by
  simp [entryPState]

theorem entryPState_uinj_of_haveUINJ (h : c.haveUINJ = true) : (entryPState c inp exc target old).uinj = false := if_pos h

end

/-- Settles O38: the SPSR is the law of `PerMode.set`, and PSTATE is `entryPState`, read field by field. T and E follow Hyp mode's
controls or SCTLR's by the target alone, so the restriction to PL1 and Hyp targets is not used. -/
theorem entryStatedFields : Obligations.EntryStatedFields := by
  intro s exc target t
  have hSpsr : t.spsr.get target = savedPState s.pstate := PerMode.get_set_same s.spsr target (savedPState s.pstate)
  have hPstate : t.pstate = entryPState s.cfg s.inp exc target s.pstate := s.enterException_pstate exc target
  rw [hPstate]
  refine ⟨hSpsr, ?m, ?m4, ?j, ?it, ?il, ?uinj, ?oneOrder, fun _ => ⟨?t, ?bothOrders⟩⟩
  case m | it | il => rfl
  case m4 => exact fun hcfg => bit4_modeCode hcfg target
  case j => exact id
  case uinj => exact entryPState_uinj_of_haveUINJ s.cfg s.inp exc target s.pstate
  case t => exact entryPState_t s.cfg s.inp exc target s.pstate
  case oneOrder =>
    intro hOne
    simp [entryPState_e, hOne]
  case bothOrders =>
    intro hBoth
    simp [entryPState_e, hBoth]

end Sys2Proof.Machine
end

section
/-! SUPPORT. Fixed bits and operand fields of a word: a row `w &&& m = v` settles every test of fewer bits, a field placed back
where it was read is the word under that field's mask, and a word is its fixed bits with its fields placed back. -/

namespace Sys2Proof.Machine

/-- A word shows its row's values in bits that are among the row's fixed bits. -/
theorem and_eq_of_row {n : Nat} {w m v m' : BitVec n} (hrow : w &&& m = v) (h : m &&& m' = m') : w &&& m' = v &&& m' := by
  rw [← hrow, BitVec.and_assoc, h]

/-- A word's row excludes a row that differs from it in a bit fixed in both. -/
theorem and_ne_of_row {n : Nat} {w m v m' v' : BitVec n} (hrow : w &&& m = v) (h : v &&& m' ≠ v' &&& m) : w &&& m' ≠ v' := by
  rintro rfl
  exact h (by rw [← hrow, BitVec.and_assoc, BitVec.and_comm m, BitVec.and_assoc])

/-- Two rows of a word are one row. -/
theorem and_or_of_rows {n : Nat} {w m v m' v' : BitVec n} (h : w &&& m = v) (h' : w &&& m' = v') :
    w &&& (m ||| m') = v ||| v' := by
  rw [BitVec.and_or_distrib_left, h, h']

/-- A field placed back where it was read is the word under that field's mask. -/
theorem place_field_eq_and {n : Nat} (v : BitVec n) (k w : Nat) :
    place n (field v k w) k = v &&& place n (BitVec.allOnes w) k :=
  eq_of_bit fun j hj => by
    rw [bit_place, bit_field, bit_and, bit_place]
    by_cases hk : k ≤ j
    · rw [Nat.add_sub_cancel' hk]
      by_cases hw : j - k < w <;> simp [bit, hj, hk, hw]
    · simp [hk]

/-- The same for one bit. -/
theorem placeBit_bit_eq_and {n : Nat} (v : BitVec n) (k : Nat) : placeBit n (bit v k) k = v &&& placeBit n true k :=
  eq_of_bit fun j hj => by
    rw [bit_placeBit, bit_and, bit_placeBit]
    by_cases hk : j = k
    · rw [hk, decide_eq_true rfl, Bool.and_true, Bool.and_true, Bool.and_comm]
    · simp [hk]

/-- A word is itself under a mask that has every bit. -/
theorem and_eq_self_of_allOnes {n : Nat} {m : BitVec n} (h : m = BitVec.allOnes n) (w : BitVec n) : w &&& m = w := by
  rw [h, BitVec.and_allOnes]

/-- What a field holds is a row. -/
theorem row_of_field {n w k : Nat} {v : BitVec n} {x : BitVec w} (h : field v k w = x) :
    v &&& place n (BitVec.allOnes w) k = place n x k := by
  rw [← place_field_eq_and, h]

/-- What a bit holds is a row. -/
theorem row_of_bit {n k : Nat} {v : BitVec n} {b : Bool} (h : bit v k = b) : v &&& placeBit n true k = placeBit n b k := by
  rw [← placeBit_bit_eq_and, h]

/-- A single bit placed elsewhere is not seen in a field. -/
theorem field_placeBit_of_disjoint {n : Nat} (b : Bool) (k k' w' : Nat) (h : k' + w' ≤ k ∨ k + 1 ≤ k') :
    field (placeBit n b k) k' w' = 0 := field_place_of_disjoint _ k k' w' h

end Sys2Proof.Machine
end

section
/-! SUPPORT. The CPS words: an assembler form of CPS is its fields imod, M, A:I:F and mode, the decoder reads those fields back
from a word, and `cpsForm` answers a form exactly for its own fields (30_encoding.md R109, R110, R112). -/

namespace Sys2Proof.Machine

/-! The fields of a form -/

/-- The field imod of a form. -/
def formImod : CpsForm → BitVec 2
  | .enable _ _ => 0b10
  | .disable _ _ => 0b11
  | .modeOnly _ => 0b00

/-- The field M of a form: whether it names a mode. -/
def formM : CpsForm → Bool
  | .enable _ mode | .disable _ mode => mode.isSome
  | .modeOnly _ => true

/-- The fields A, I, F of a form. -/
def formFlags : CpsForm → IFlags
  | .enable fl _ | .disable fl _ => fl
  | .modeOnly _ => ⟨false, false, false⟩

/-- The mode field of a form. -/
def formMode : CpsForm → BitVec 5
  | .enable _ mode | .disable _ mode => mode.getD 0
  | .modeOnly mode => mode

/-- A form names a mask where it sets or clears masks (92 D29). -/
def formOk : CpsForm → Bool
  | .enable fl _ | .disable fl _ => fl.nonEmpty
  | .modeOnly _ => true

/-- The operands of a CPSIE or CPSID are read from the fields M, A:I:F and mode that they are written as, and from no others. -/
theorem cpsMaskOperands_eq_ok_iff {m : Bool} {fl fl' : IFlags} {md : BitVec 5} {mode : Option (BitVec 5)} :
    cpsMaskOperands m fl md = .ok (fl', mode) ↔ fl'.nonEmpty = true ∧ fl' = fl ∧ mode.isSome = m ∧ mode.getD 0 = md := by
  unfold cpsMaskOperands
  split
  next hnone => exact iff_of_false nofun fun ⟨hok, hfl, _⟩ => by rw [hfl, hnone] at hok; cases hok
  next hnot =>
    have hok : fl.nonEmpty = true := by simpa using hnot
    have hfl (P : Prop) : fl'.nonEmpty = true ∧ fl' = fl ∧ P ↔ fl = fl' ∧ P :=
      ⟨fun ⟨_, h, hp⟩ => ⟨h.symm, hp⟩, fun ⟨h, hp⟩ => ⟨h ▸ hok, h.symm, hp⟩⟩
    rw [hfl]
    cases m with
    | true => cases mode <;> simp [eq_comm (a := md)]
    | false => by_cases hmd : 0#5 = md <;> cases mode <;> simp [hmd, eq_comm (a := md)]

/-- The operands of a CPSIE or CPSID are refused where no mask is named, or a mode without M (30_encoding.md R112). -/
theorem cpsMaskOperands_refuses_iff {m : Bool} {fl : IFlags} {md : BitVec 5} :
    (∃ e, cpsMaskOperands m fl md = .error e) ↔ fl.nonEmpty = false ∨ (m = false ∧ md ≠ 0) := by
  unfold cpsMaskOperands
  split
  · simp [*]
  · by_cases hmd : md = 0 <;> cases m <;> simp_all

/-- What a mapped decode answers. -/
theorem exceptMap_eq_ok_iff {ε α β : Type} {x : Except ε α} {f : α → β} {b : β} :
    x.map f = .ok b ↔ ∃ a, x = .ok a ∧ f a = b := by
  cases x <;> simp [Except.map]

/-- A mapped decode refuses where the decode does. -/
theorem exceptMap_eq_error_iff {ε α β : Type} {x : Except ε α} {f : α → β} {e : ε} : x.map f = .error e ↔ x = .error e := by
  cases x <;> simp [Except.map]

/-- The four values of imod. -/
theorem imod_cases (imod : BitVec 2) : imod = 0b00 ∨ imod = 0b01 ∨ imod = 0b10 ∨ imod = 0b11 := by
  revert imod; decide

/-- No mask is named exactly where A, I and F are all 0. -/
theorem nonEmpty_eq_false_iff {fl : IFlags} : fl.nonEmpty = false ↔ fl = ⟨false, false, false⟩ := by
  obtain ⟨a, i, f⟩ := fl
  simp [IFlags.nonEmpty, and_assoc]

/-- With imod = 00 the one form is CPS #mode, with M = 1 and no mask named (30_encoding.md R112). -/
theorem cpsForm_modeOnly_eq_ok_iff {m : Bool} {fl : IFlags} {md : BitVec 5} {e : DecodeError} {f : CpsForm} :
    cpsForm 0b00 m fl md e = .ok f ↔ m = true ∧ fl = ⟨false, false, false⟩ ∧ f = .modeOnly md := by
  rw [← nonEmpty_eq_false_iff]
  cases m <;> cases h : fl.nonEmpty <;> simp [cpsForm, h, eq_comm (a := f)]

/-- `cpsForm` answers a form exactly for that form's own fields. -/
theorem cpsForm_eq_ok_iff {imod : BitVec 2} {m : Bool} {fl : IFlags} {md : BitVec 5} {e : DecodeError} {f : CpsForm} :
    cpsForm imod m fl md e = .ok f
      ↔ formOk f = true ∧ formImod f = imod ∧ formFlags f = fl ∧ formM f = m ∧ formMode f = md := by
  rcases imod_cases imod with rfl | rfl | rfl | rfl
  case inl =>
    rw [cpsForm_modeOnly_eq_ok_iff, eq_comm (a := fl)]
    cases f <;> simp [formOk, formImod, formM, formFlags, formMode, and_left_comm, eq_comm (a := true)]
  case inr.inl => cases f <;> simp [cpsForm, formImod]
  case inr.inr.inl | inr.inr.inr =>
    cases f <;>
      simp [cpsForm, formOk, formImod, formM, formFlags, formMode, exceptMap_eq_ok_iff, cpsMaskOperands_eq_ok_iff]

/-- `cpsForm` refuses exactly the fields that are no form's (30_encoding.md R112, 92 D29). -/
theorem cpsForm_refuses_iff {imod : BitVec 2} {m : Bool} {fl : IFlags} {md : BitVec 5} {e : DecodeError} :
    (∃ e', cpsForm imod m fl md e = .error e') ↔
      imod = 0b01 ∨ (imod = 0b00 ∧ m = false) ∨ (m = false ∧ md ≠ 0) ∨ (bit imod 1 = true ∧ fl.nonEmpty = false)
        ∨ (bit imod 1 = false ∧ fl.nonEmpty = true) := by
  rcases imod_cases imod with rfl | rfl | rfl | rfl
  case inl => cases m <;> cases h : fl.nonEmpty <;> simp [cpsForm, h, bit]
  case inr.inl => simp [cpsForm]
  case inr.inr.inl | inr.inr.inr => simp [cpsForm, exceptMap_eq_error_iff, cpsMaskOperands_refuses_iff, bit, or_comm]

end Sys2Proof.Machine
end

section
/-! SUPPORT. CPS words and halfwords: the encoder writes the fields of a form, and the decoder reads them back and gives them to
`cpsForm` (30_encoding.md R109, R110). -/

namespace Sys2Proof.Machine

/-! Single bits placed -/

theorem placeBit_false (n k : Nat) : placeBit n false k = 0 := by simp [placeBit, place]

theorem bit_placeBit_same {n : Nat} (b : Bool) (k : Nat) (h : k < n) : bit (placeBit n b k) k = b := by
  simp [bit_placeBit, h]

theorem bit_placeBit_other {n : Nat} (b : Bool) (k j : Nat) (h : j ≠ k) : bit (placeBit n b k) j = false := by
  simp [bit_placeBit, h]

theorem bit_place_of_disjoint {n w : Nat} (x : BitVec w) (k j : Nat) (h : j < k ∨ k + w ≤ j) :
    bit (place n x k) j = false := by
  rw [bit_place]
  by_cases hk : k ≤ j
  · have hx : bit x (j - k) = false := BitVec.getLsbD_of_ge x _ (by omega)
    rw [hx, Bool.and_false]
  · simp [hk]

/-! The words of a form -/

/-- The A32 CPS word of fields imod, M, A:I:F and mode (30_encoding.md R109). -/
def cpsWordA1 (imod : BitVec 2) (m : Bool) (fl : IFlags) (md : BitVec 5) : Word :=
  0xF1000000 ||| place 32 imod 18 ||| placeBit 32 m 17 ||| placeBit 32 fl.a 8 ||| placeBit 32 fl.i 7
    ||| placeBit 32 fl.f 6 ||| place 32 md 0

/-- The second halfword of T32 CPS T2 of fields imod, M, A:I:F and mode (30_encoding.md R110). -/
def cpsHalfT2 (imod : BitVec 2) (m : Bool) (fl : IFlags) (md : BitVec 5) : Half :=
  0x8000 ||| place 16 imod 9 ||| placeBit 16 m 8 ||| placeBit 16 fl.a 7 ||| placeBit 16 fl.i 6
    ||| placeBit 16 fl.f 5 ||| place 16 md 0

/-- A form's A32 instruction is encoded as the word of the form's fields. -/
theorem encode_a1 (f : CpsForm) : encode f.a1 = .a32 (cpsWordA1 (formImod f) (formM f) (formFlags f) (formMode f)) := by
  cases f with
  | enable fl mode | disable fl mode =>
    simp only [CpsForm.a1, encode, cpsWordA1, formImod, formM, formFlags, formMode, cpsFieldsA1, ← BitVec.or_assoc]
    rfl
  | modeOnly mode =>
    simp only [CpsForm.a1, encode, cpsWordA1, formImod, formM, formFlags, formMode, placeBit_false]
    rfl

/-- A form's T32 instruction is encoded as 0xF3AF and the halfword of the form's fields. -/
theorem encode_t2 (f : CpsForm) :
    encode f.t2 = .t32 0xF3AF (cpsHalfT2 (formImod f) (formM f) (formFlags f) (formMode f)) := by
  cases f with
  | enable fl mode | disable fl mode =>
    simp only [CpsForm.t2, encode, cpsHalfT2, formImod, formM, formFlags, formMode, cpsFieldsT2, ← BitVec.or_assoc]
    rfl
  | modeOnly mode =>
    simp only [CpsForm.t2, encode, cpsHalfT2, formImod, formM, formFlags, formMode, placeBit_false]
    rfl

section
variable (imod : BitVec 2) (m : Bool) (fl : IFlags) (md : BitVec 5)

/-- The fixed bits of a CPS word. -/
theorem cpsWordA1_row : cpsWordA1 imod m fl md &&& 0xFFF1FE20 = 0xF1000000 := by
  simp (disch := decide) only [cpsWordA1, or_mask, place_and_eq_zero, placeBit_and_eq_zero]
  rfl

/-- The fixed bits of a CPS T2 second halfword. -/
theorem cpsHalfT2_row : cpsHalfT2 imod m fl md &&& 0xF800 = 0x8000 := by
  simp (disch := decide) only [cpsHalfT2, or_mask, place_and_eq_zero, placeBit_and_eq_zero]
  rfl

/-- The fields of a CPS word. -/
theorem cpsWordA1_fields :
    let w := cpsWordA1 imod m fl md
    field w 18 2 = imod ∧ bit w 17 = m ∧ bit w 8 = fl.a ∧ bit w 7 = fl.i ∧ bit w 6 = fl.f ∧ field w 0 5 = md := by
  refine ⟨?imod, ?m, ?a, ?i, ?f, ?md⟩
  case imod | md =>
    simp (disch := decide) only [cpsWordA1, field_or, field_place, field_place_of_disjoint, field_placeBit_of_disjoint]
    simp [field]
  case m | a | i | f =>
    simp (disch := decide) only [cpsWordA1, bit_or, bit_place_of_disjoint, bit_placeBit_same, bit_placeBit_other]
    simp [bit]

/-- The fields of a CPS T2 second halfword. -/
theorem cpsHalfT2_fields :
    let h := cpsHalfT2 imod m fl md
    field h 9 2 = imod ∧ bit h 8 = m ∧ bit h 7 = fl.a ∧ bit h 6 = fl.i ∧ bit h 5 = fl.f ∧ field h 0 5 = md := by
  refine ⟨?imod, ?m, ?a, ?i, ?f, ?md⟩
  case imod | md =>
    simp (disch := decide) only [cpsHalfT2, field_or, field_place, field_place_of_disjoint, field_placeBit_of_disjoint]
    simp [field]
  case m | a | i | f =>
    simp (disch := decide) only [cpsHalfT2, bit_or, bit_place_of_disjoint, bit_placeBit_same, bit_placeBit_other]
    simp [bit]

/-- Decoding a CPS word gives its fields to `cpsForm`. -/
theorem decodeA32_cpsWordA1 :
    decodeA32 (cpsWordA1 imod m fl md) = (cpsForm imod m fl md .cpsNothing).map CpsForm.a1 := by
  have hrow := cpsWordA1_row imod m fl md
  obtain ⟨himod, hm, ha, hi, hf, hmd⟩ := cpsWordA1_fields imod m fl md
  have huncond : field (cpsWordA1 imod m fl md) 28 4 = (0b1111 : BitVec 4) := by
    simp (disch := decide) only [cpsWordA1, field_or, field_place_of_disjoint, field_placeBit_of_disjoint]
    rfl
  rw [decodeA32, if_pos huncond]
  simp (disch := decide) [decodeA32Uncond, and_eq_of_row hrow, himod, hm, ha, hi, hf, hmd]

/-- Decoding a CPS T2 pair of halfwords gives its fields to `cpsForm`. -/
theorem decodeT32_cpsHalfT2 :
    decodeT32 0xF3AF (cpsHalfT2 imod m fl md) = (cpsForm imod m fl md .hintSpace).map CpsForm.t2 := by
  have hrow := cpsHalfT2_row imod m fl md
  obtain ⟨himod, hm, ha, hi, hf, hmd⟩ := cpsHalfT2_fields imod m fl md
  simp (disch := decide) [decodeT32, and_eq_of_row hrow, himod, hm, ha, hi, hf, hmd]

end

/-- Settles O4: both words are those of the fields, which `cpsForm` refuses exactly where they are no form's. -/
theorem cpsWordsWithoutFormRefused : Obligations.CpsWordsWithoutFormRefused := by
  intro imod m a i f mode named noForm a32 t32
  have hRefuses (e : DecodeError) : (∃ e', cpsForm imod m ⟨a, i, f⟩ mode e = .error e') ↔ noForm := cpsForm_refuses_iff
  have hA32 : decodeA32 a32 = _ := decodeA32_cpsWordA1 imod m ⟨a, i, f⟩ mode
  have hT32 : decodeT32 0xF3AF t32 = _ := decodeT32_cpsHalfT2 imod m ⟨a, i, f⟩ mode
  simp only [hA32, hT32, exceptMap_eq_error_iff, hRefuses, and_self]

end Sys2Proof.Machine
end

section
/-! SUPPORT. Decoding read as an equivalence: an encoding decodes to an instruction exactly where the instruction is well formed
and is encoded so. Each opcode test of the decoder is a row of fixed bits, so a word that passes it is the row's value with the
word's own operand fields placed back. -/

namespace Sys2Proof.Machine

open Sys2Proof.Laws

/-! Register operands -/

/-- A register's field is its number. -/
theorem regField_toNat (r : Reg) : (regField r).toNat = r.val := by
  rw [regField, BitVec.toNat_ofNat, Nat.mod_eq_of_lt (by omega)]

/-- A register field decodes exactly to the register it is the field of. -/
theorem decodeReg_eq_ok_iff {n : BitVec 4} {r : Reg} : decodeReg n = .ok r ↔ regField r = n := by
  rw [← BitVec.toNat_inj, regField_toNat, decodeReg]
  split
  · simp [Fin.ext_iff, eq_comm]
  · simp; omega

/-- The same for a T32 MRS or MSR, where register 13 is no operand. -/
theorem decodeT32Reg_eq_ok_iff {n : BitVec 4} {r : Reg} :
    decodeT32Reg n = .ok r ↔ t32RegOk r = true ∧ regField r = n := by
  have h13 : regField r = 13 ↔ r = 13 := by rw [← BitVec.toNat_inj, regField_toNat, Fin.ext_iff]; rfl
  rw [decodeT32Reg, t32RegOk, bne_iff_ne, ne_eq, ← h13]
  split
  next hn => exact iff_of_false nofun fun ⟨hr, hrn⟩ => hr (hrn.trans hn)
  next hn => exact decodeReg_eq_ok_iff.trans ⟨fun hrn => ⟨fun hr => hn (hrn.symm.trans hr), hrn⟩, fun ⟨_, hrn⟩ => hrn⟩

/-! The 16-bit CPS -/

/-- The halfword of T32 CPSIE (`b` = 0) and CPSID (`b` = 1) T1 (30_encoding.md R110). -/
def cpsHalfT1 (b : Bool) (fl : IFlags) : Half :=
  0xB660 ||| placeBit 16 b 4 ||| placeBit 16 fl.a 2 ||| placeBit 16 fl.i 1 ||| placeBit 16 fl.f 0

/-- CPSIE T1 is the halfword with bit 4 = 0. -/
theorem encode_cpsieT1 (fl : IFlags) : encode (.cpsieT1 fl) = .t16 (cpsHalfT1 false fl) := by
  simp only [encode, cpsFieldsT1, cpsHalfT1, placeBit_false, ← BitVec.or_assoc]
  rfl

/-- CPSID T1 is the halfword with bit 4 = 1. -/
theorem encode_cpsidT1 (fl : IFlags) : encode (.cpsidT1 fl) = .t16 (cpsHalfT1 true fl) := by
  simp only [encode, cpsFieldsT1, cpsHalfT1, ← BitVec.or_assoc]
  rfl

/-- The fixed bits of a CPS T1 halfword, the "should be" bit 3 among them. -/
theorem cpsHalfT1_row (b : Bool) (fl : IFlags) : cpsHalfT1 b fl &&& 0xFFE8 = 0xB660 := by
  simp (disch := decide) only [cpsHalfT1, or_mask, placeBit_and_eq_zero]
  rfl

/-- The operand bits of a CPS T1 halfword. -/
theorem cpsHalfT1_fields (b : Bool) (fl : IFlags) :
    let h := cpsHalfT1 b fl
    bit h 4 = b ∧ bit h 3 = false ∧ bit h 2 = fl.a ∧ bit h 1 = fl.i ∧ bit h 0 = fl.f := by
  refine ⟨?b, ?sb, ?a, ?i, ?f⟩ <;>
    simp (disch := decide) only [cpsHalfT1, bit_or, bit_placeBit_same, bit_placeBit_other]
  all_goals simp [bit]

/-! Words rebuilt from their fields -/

/-- The A32 CPS word of a word's own fields is the word, where the fixed bits agree. -/
theorem cpsWordA1_of_row {w : Word} (h : w &&& 0xFFF1FE20 = 0xF1000000) :
    cpsWordA1 (field w 18 2) (bit w 17) ⟨bit w 8, bit w 7, bit w 6⟩ (field w 0 5) = w := by
  simp only [cpsWordA1, place_field_eq_and, placeBit_bit_eq_and, ← h, ← BitVec.and_or_distrib_left]
  exact and_eq_self_of_allOnes rfl w

/-- The T32 T2 CPS halfword of a halfword's own fields is the halfword, where the fixed bits agree. -/
theorem cpsHalfT2_of_row {h : Half} (hrow : h &&& 0xF800 = 0x8000) :
    cpsHalfT2 (field h 9 2) (bit h 8) ⟨bit h 7, bit h 6, bit h 5⟩ (field h 0 5) = h := by
  simp only [cpsHalfT2, place_field_eq_and, placeBit_bit_eq_and, ← hrow, ← BitVec.and_or_distrib_left]
  exact and_eq_self_of_allOnes rfl h

/-- The T32 T1 CPS halfword of a halfword's own masks is the halfword, where the fixed bits agree. -/
theorem cpsHalfT1_of_row {h : Half} {b : Bool} (hrow : h &&& 0xFFE0 = 0xB660) (hsb : bit h 3 = false) (hb : bit h 4 = b) :
    cpsHalfT1 b ⟨bit h 2, bit h 1, bit h 0⟩ = h := by
  have hrow : h &&& 0xFFE8 = 0xB660 := and_or_of_rows hrow (row_of_bit hsb)
  simp only [cpsHalfT1, ← hb, placeBit_bit_eq_and, ← hrow, ← BitVec.and_or_distrib_left]
  exact and_eq_self_of_allOnes rfl h

/-- A word whose fixed bits are all but one is told by that one. -/
theorem eq_of_row_and_bit {n k : Nat} {w m v u : BitVec n} {b : Bool} (hrow : w &&& m = v) (hbit : bit w k = b)
    (hm : m ||| placeBit n true k = BitVec.allOnes n) (hu : v ||| placeBit n b k = u) : u = w := by
  rw [← hu, ← hbit, placeBit_bit_eq_and, ← hrow, ← BitVec.and_or_distrib_left, and_eq_self_of_allOnes hm]

/-! One row of the conditional space or of 32-bit T32 at a time: a word in the row decodes to the instruction of its fields, and
is that instruction's encoding -/

section
variable {w : Word}

theorem decodeA32Cond_of_mrs_row (hrow : w &&& 0x0FFF0FFF = 0x010F0000) :
    decodeA32Cond w = (decodeReg (field w 12 4)).map fun rd => .mrsA1 (field w 28 4) rd := by
  simp (disch := decide) only [decodeA32Cond, hrow, and_eq_of_row hrow, bit_of_and_eq hrow]
  rfl

theorem encode_of_mrs_row (hrow : w &&& 0x0FFF0FFF = 0x010F0000) {rd : Reg} (hrd : regField rd = field w 12 4) :
    encode (.mrsA1 (field w 28 4) rd) = .a32 w := by
  simp only [encode, hrd, place_field_eq_and, ← hrow, ← BitVec.and_or_distrib_left]
  exact congrArg _ (and_eq_self_of_allOnes rfl w)

theorem decodeA32Cond_of_msrReg_row (hrow : w &&& 0x0FF0FFF0 = 0x0120F000) (hmask : field w 16 4 ≠ (0 : BitVec 4)) :
    decodeA32Cond w = (decodeReg (field w 0 4)).map fun rn => .msrRegA1 (field w 28 4) (field w 16 4) rn := by
  simp (disch := decide) only [decodeA32Cond, if_neg hmask, and_eq_of_row hrow, bit_of_and_eq hrow]
  rfl

theorem encode_of_msrReg_row (hrow : w &&& 0x0FF0FFF0 = 0x0120F000) {rn : Reg} (hrn : regField rn = field w 0 4) :
    encode (.msrRegA1 (field w 28 4) (field w 16 4) rn) = .a32 w := by
  simp only [encode, hrn, place_field_eq_and, ← hrow, ← BitVec.and_or_distrib_left]
  exact congrArg _ (and_eq_self_of_allOnes rfl w)

theorem decodeA32Cond_of_msrImm_row (hrow : w &&& 0x0FF0F000 = 0x0320F000) (hmask : field w 16 4 ≠ (0 : BitVec 4)) :
    decodeA32Cond w = .ok (.msrImmA1 (field w 28 4) (field w 16 4) (field w 0 12)) := by
  simp (disch := decide) only [decodeA32Cond, if_neg hmask, and_eq_of_row hrow, and_ne_of_row hrow, bit_of_and_eq hrow,
    if_false]
  rfl

theorem encode_of_msrImm_row (hrow : w &&& 0x0FF0F000 = 0x0320F000) :
    encode (.msrImmA1 (field w 28 4) (field w 16 4) (field w 0 12)) = .a32 w := by
  simp only [encode, place_field_eq_and, ← hrow, ← BitVec.and_or_distrib_left]
  exact congrArg _ (and_eq_self_of_allOnes rfl w)

theorem decodeA32Cond_of_ldr_row (hrow : w &&& 0x0F700000 = 0x05100000) {rn rt : Reg} (hrn : regField rn = field w 16 4)
    (hrt : regField rt = field w 12 4) :
    decodeA32Cond w = .ok (.ldrA1 (field w 28 4) (bit w 23) rn rt (field w 0 12)) := by
  simp (disch := decide) only [decodeA32Cond, hrow, and_ne_of_row hrow, if_false, if_true, decodeReg_eq_ok_iff.2 hrn,
    decodeReg_eq_ok_iff.2 hrt]

theorem encode_of_ldr_row (hrow : w &&& 0x0F700000 = 0x05100000) {rn rt : Reg} (hrn : regField rn = field w 16 4)
    (hrt : regField rt = field w 12 4) : encode (.ldrA1 (field w 28 4) (bit w 23) rn rt (field w 0 12)) = .a32 w := by
  simp only [encode, hrn, hrt, place_field_eq_and, placeBit_bit_eq_and, ← hrow, ← BitVec.and_or_distrib_left]
  exact congrArg _ (and_eq_self_of_allOnes rfl w)

end

section
variable {x y : Half}

theorem decodeT32_of_mrs_row (hrow : y &&& 0xF0FF = 0x8000) :
    decodeT32 0xF3EF y = (decodeT32Reg (field y 8 4)).map fun rd => .mrsT1 rd := by
  simp (disch := decide) [decodeT32, and_eq_of_row hrow, bit]

theorem encode_of_mrsT1_row (hrow : y &&& 0xF0FF = 0x8000) {rd : Reg} (hrd : regField rd = field y 8 4) :
    encode (.mrsT1 rd) = .t32 0xF3EF y := by
  simp only [encode, hrd, place_field_eq_and, ← hrow, ← BitVec.and_or_distrib_left]
  exact congrArg _ (and_eq_self_of_allOnes rfl y)

theorem decodeT32_of_msrReg_row (hrow1 : x &&& 0xFFF0 = 0xF380) (hrow2 : y &&& 0xF0FF = 0x8000)
    (hmask : field y 8 4 ≠ (0 : BitVec 4)) :
    decodeT32 x y = (decodeT32Reg (field x 0 4)).map fun rn => .msrRegT1 (field y 8 4) rn := by
  simp (disch := decide) only [decodeT32, if_neg hmask, hrow2, and_eq_of_row hrow1, and_eq_of_row hrow2,
    bit_of_and_eq hrow1]
  rfl

theorem encode_of_msrRegT1_row (hrow1 : x &&& 0xFFF0 = 0xF380) (hrow2 : y &&& 0xF0FF = 0x8000)
    {rn : Reg} (hrn : regField rn = field x 0 4) : encode (.msrRegT1 (field y 8 4) rn) = .t32 x y := by
  simp only [encode, hrn, place_field_eq_and, ← hrow1, ← hrow2, ← BitVec.and_or_distrib_left]
  exact congrArg₂ _ (and_eq_self_of_allOnes rfl x) (and_eq_self_of_allOnes rfl y)

end

/-! What the decoder answers is well formed and encoded as what it was given -/

theorem maskOk_iff {mask : BitVec 4} : maskOk mask = true ↔ mask ≠ 0 := bne_iff_ne

/-- A form's A32 instruction is well formed exactly where the form names its masks. -/
theorem wellFormed_a1 (f : CpsForm) : f.a1.wellFormed = formOk f := by cases f <;> rfl

/-- The same for its T32 instruction. -/
theorem wellFormed_t2 (f : CpsForm) : f.t2.wellFormed = formOk f := by cases f <;> rfl

/-- The unconditional space: a CPS word by `cpsForm`, a SETEND or SETPAN word by its one operand bit. -/
theorem decodeA32Uncond_eq_ok {w : Word} {i : Instr} (huncond : field w 28 4 = (0b1111 : BitVec 4))
    (h : decodeA32Uncond w = .ok i) : i.wellFormed = true ∧ encode i = .a32 w := by
  unfold decodeA32Uncond at h
  split_ifs at h with hCps hSb _ hSetend hE _ hSetpan hPan
  · obtain ⟨f, hf, rfl⟩ := exceptMap_eq_ok_iff.1 h
    obtain ⟨hok, himod, hfl, hm, hmd⟩ := cpsForm_eq_ok_iff.1 hf
    have hrow : w &&& 0xFFF1FE20 = 0xF1000000 := and_or_of_rows (and_or_of_rows hCps hSb) (row_of_field huncond)
    exact ⟨by rw [wellFormed_a1, hok], by rw [encode_a1, himod, hfl, hm, hmd, cpsWordA1_of_row hrow]⟩
  · cases h; exact ⟨rfl, congrArg _ (eq_of_row_and_bit hSetend hE rfl rfl)⟩
  · cases h; exact ⟨rfl, congrArg _ (eq_of_row_and_bit hSetend (Bool.eq_false_iff.2 hE) rfl rfl)⟩
  · cases h; exact ⟨rfl, congrArg _ (eq_of_row_and_bit hSetpan hPan rfl rfl)⟩
  · cases h; exact ⟨rfl, congrArg _ (eq_of_row_and_bit hSetpan (Bool.eq_false_iff.2 hPan) rfl rfl)⟩

/-- The conditional space: each answer comes from a row, which with the word's fields is the encoding. -/
theorem decodeA32Cond_eq_ok {w : Word} {i : Instr} (hcond : condOk (field w 28 4) = true)
    (h : decodeA32Cond w = .ok i) : i.wellFormed = true ∧ encode i = .a32 w := by
  have hwf {mask : BitVec 4} (hmask : ¬ mask = 0) : (condOk (field w 28 4) && maskOk mask) = true :=
    Bool.and_eq_true_iff.2 ⟨hcond, maskOk_iff.2 hmask⟩
  unfold decodeA32Cond at h
  split_ifs at h with _ _ hMrs _ _ hMsrReg hmask _ _ hmask hMsrImm hLdr
  · obtain ⟨rd, hrd, rfl⟩ := exceptMap_eq_ok_iff.1 h
    exact ⟨hcond, encode_of_mrs_row hMrs (decodeReg_eq_ok_iff.1 hrd)⟩
  · obtain ⟨rn, hrn, rfl⟩ := exceptMap_eq_ok_iff.1 h
    exact ⟨hwf hmask, encode_of_msrReg_row hMsrReg (decodeReg_eq_ok_iff.1 hrn)⟩
  · cases h
    exact ⟨hwf hmask, encode_of_msrImm_row hMsrImm⟩
  · split at h
    next hrn hrt =>
      cases h
      exact ⟨hcond, encode_of_ldr_row hLdr (decodeReg_eq_ok_iff.1 hrn) (decodeReg_eq_ok_iff.1 hrt)⟩
    next => cases h

/-- 16-bit T32: a CPS halfword by its masks, a SETEND or SETPAN halfword by its one operand bit. -/
theorem decodeT16_eq_ok {x : Half} {i : Instr} (h : decodeT16 x = .ok i) : i.wellFormed = true ∧ encode i = .t16 x := by
  unfold decodeT16 at h
  split_ifs at h with hCps hSb hB _ hSetend hE _ hSetpan hPan
  · obtain ⟨⟨fl, mode⟩, hops, rfl⟩ := exceptMap_eq_ok_iff.1 h
    obtain ⟨hok, rfl, -⟩ := cpsMaskOperands_eq_ok_iff.1 hops
    exact ⟨hok, by rw [encode_cpsidT1, cpsHalfT1_of_row hCps (Bool.eq_false_iff.2 hSb) hB]⟩
  · obtain ⟨⟨fl, mode⟩, hops, rfl⟩ := exceptMap_eq_ok_iff.1 h
    obtain ⟨hok, rfl, -⟩ := cpsMaskOperands_eq_ok_iff.1 hops
    exact ⟨hok, by rw [encode_cpsieT1, cpsHalfT1_of_row hCps (Bool.eq_false_iff.2 hSb) (Bool.eq_false_iff.2 hB)]⟩
  · cases h; exact ⟨rfl, congrArg _ (eq_of_row_and_bit hSetend hE rfl rfl)⟩
  · cases h; exact ⟨rfl, congrArg _ (eq_of_row_and_bit hSetend (Bool.eq_false_iff.2 hE) rfl rfl)⟩
  · cases h; exact ⟨rfl, congrArg _ (eq_of_row_and_bit hSetpan hPan rfl rfl)⟩
  · cases h; exact ⟨rfl, congrArg _ (eq_of_row_and_bit hSetpan (Bool.eq_false_iff.2 hPan) rfl rfl)⟩

/-- 32-bit T32: a CPS pair by `cpsForm`, MRS and MSR by their rows. -/
theorem decodeT32_eq_ok {x y : Half} {i : Instr} (h : decodeT32 x y = .ok i) :
    i.wellFormed = true ∧ encode i = .t32 x y := by
  unfold decodeT32 at h
  split_ifs at h with hCps hSb _ _ hMrs hMsr hSaved hMsrRow hmask
  · obtain ⟨f, hf, rfl⟩ := exceptMap_eq_ok_iff.1 h
    obtain ⟨hok, himod, hfl, hm, hmd⟩ := cpsForm_eq_ok_iff.1 hf
    obtain ⟨rfl, hSb⟩ := hSb
    have hrow : y &&& 0xF800 = 0x8000 := and_or_of_rows hCps.2 hSb
    exact ⟨by rw [wellFormed_t2, hok], by rw [encode_t2, himod, hfl, hm, hmd, cpsHalfT2_of_row hrow]⟩
  · obtain ⟨rd, hrd, rfl⟩ := exceptMap_eq_ok_iff.1 h
    obtain ⟨hok, hrd⟩ := decodeT32Reg_eq_ok_iff.1 hrd
    obtain ⟨rfl, hrow⟩ := hMrs
    exact ⟨hok, encode_of_mrsT1_row hrow hrd⟩
  · obtain ⟨rn, hrn, rfl⟩ := exceptMap_eq_ok_iff.1 h
    obtain ⟨hok, hrn⟩ := decodeT32Reg_eq_ok_iff.1 hrn
    have hrow : x &&& 0xFFF0 = 0xF380 := and_or_of_rows hMsr.1 (row_of_bit (Bool.eq_false_iff.2 hSaved))
    exact ⟨Bool.and_eq_true_iff.2 ⟨maskOk_iff.2 hmask, hok⟩, encode_of_msrRegT1_row hrow hMsrRow hrn⟩

/-! A well-formed instruction's encoding decodes to it -/

/-- The decoder of an encoding. -/
def decodeEncoding : Encoding → Except DecodeError Instr
  | .a32 w => decodeA32 w
  | .t16 h => decodeT16 h
  | .t32 h1 h2 => decodeT32 h1 h2

/-- The first halfword of a T32 encoding says how many halfwords there are (30_encoding.md R101). -/
def lengthOk : Encoding → Bool
  | .a32 _ => true
  | .t16 h => !isWide h
  | .t32 h1 _ => isWide h1

/-- A CPS form's A32 word decodes to the form. -/
theorem decodeEncoding_encode_a1 {f : CpsForm} (h : formOk f = true) : decodeEncoding (encode f.a1) = .ok f.a1 := by
  rw [encode_a1, decodeEncoding, decodeA32_cpsWordA1, cpsForm_eq_ok_iff.2 ⟨h, rfl, rfl, rfl, rfl⟩]
  rfl

/-- A CPS form's T32 pair of halfwords decodes to the form. -/
theorem decodeEncoding_encode_t2 {f : CpsForm} (h : formOk f = true) : decodeEncoding (encode f.t2) = .ok f.t2 := by
  rw [encode_t2, decodeEncoding, decodeT32_cpsHalfT2, cpsForm_eq_ok_iff.2 ⟨h, rfl, rfl, rfl, rfl⟩]
  rfl

/-- A CPS T1 halfword that names a mask decodes to it. -/
theorem decodeT16_cpsHalfT1 (b : Bool) {fl : IFlags} (h : fl.nonEmpty = true) :
    decodeT16 (cpsHalfT1 b fl) = .ok (if b then .cpsidT1 fl else .cpsieT1 fl) := by
  obtain ⟨hb, hsb, ha, hi, hf⟩ := cpsHalfT1_fields b fl
  have hops : cpsMaskOperands false ⟨fl.a, fl.i, fl.f⟩ 0 = .ok (fl, none) := cpsMaskOperands_eq_ok_iff.2 ⟨h, rfl, rfl, rfl⟩
  simp (disch := decide) only [decodeT16, and_eq_of_row (cpsHalfT1_row b fl), hb, hsb, ha, hi, hf, hops]
  rfl

/-! The operand fields of the words of the conditional space and of T32 MRS and MSR -/

section
variable (cond mask : BitVec 4) (rd rn rt : Reg) (up : Bool) (imm12 : BitVec 12)

theorem mrsA1_fields :
    let w := TableRow.tableWord (encode (.mrsA1 cond rd))
    field w 28 4 = cond ∧ field w 12 4 = regField rd := by
  constructor <;>
    (simp (disch := decide) only [TableRow.tableWord, encode, field_or, field_place, field_place_of_disjoint]; simp [field])

theorem msrRegA1_fields :
    let w := TableRow.tableWord (encode (.msrRegA1 cond mask rn))
    field w 28 4 = cond ∧ field w 16 4 = mask ∧ field w 0 4 = regField rn := by
  refine ⟨?_, ?_, ?_⟩ <;>
    (simp (disch := decide) only [TableRow.tableWord, encode, field_or, field_place, field_place_of_disjoint]; simp [field])

theorem msrImmA1_fields :
    let w := TableRow.tableWord (encode (.msrImmA1 cond mask imm12))
    field w 28 4 = cond ∧ field w 16 4 = mask ∧ field w 0 12 = imm12 := by
  refine ⟨?_, ?_, ?_⟩ <;>
    (simp (disch := decide) only [TableRow.tableWord, encode, field_or, field_place, field_place_of_disjoint]; simp [field])

theorem ldrA1_fields :
    let w := TableRow.tableWord (encode (.ldrA1 cond up rn rt imm12))
    field w 28 4 = cond ∧ field w 16 4 = regField rn ∧ field w 12 4 = regField rt ∧ field w 0 12 = imm12 ∧ bit w 23 = up := by
  refine ⟨?_, ?_, ?_, ?_, ?up⟩
  case up =>
    simp (disch := decide) only [TableRow.tableWord, encode, bit_or, bit_place_of_disjoint, bit_placeBit_same]
    simp [bit]
  all_goals
    simp (disch := decide) only [TableRow.tableWord, encode, field_or, field_place, field_place_of_disjoint,
      field_placeBit_of_disjoint]
    simp [field]

end

/-! A well-formed instruction's encoding decodes to it -/

section
variable {cond : BitVec 4} (hcond : condOk cond = true)
include hcond

/-- A word with a condition is decoded in the conditional space. -/
theorem decodeA32_of_cond {w : Word} (h : field w 28 4 = cond) : decodeA32 w = decodeA32Cond w := by
  rw [decodeA32, h, if_neg (bne_iff_ne.1 hcond)]

theorem decodeA32_mrsA1 (rd : Reg) :
    decodeA32 (TableRow.tableWord (encode (.mrsA1 cond rd))) = .ok (.mrsA1 cond rd) := by
  obtain ⟨hc, hrd⟩ := mrsA1_fields cond rd
  rw [decodeA32_of_cond hcond hc, decodeA32Cond_of_mrs_row (TableRow.mrsA1 cond rd), hc, hrd, decodeReg_eq_ok_iff.2 rfl]
  rfl

theorem decodeA32_msrRegA1 {mask : BitVec 4} (hmask : maskOk mask = true) (rn : Reg) :
    decodeA32 (TableRow.tableWord (encode (.msrRegA1 cond mask rn))) = .ok (.msrRegA1 cond mask rn) := by
  obtain ⟨hc, hm, hrn⟩ := msrRegA1_fields cond mask rn
  rw [decodeA32_of_cond hcond hc,
    decodeA32Cond_of_msrReg_row (TableRow.msrRegA1 cond mask rn) (by rw [hm]; exact maskOk_iff.1 hmask), hc, hm, hrn,
    decodeReg_eq_ok_iff.2 rfl]
  rfl

theorem decodeA32_msrImmA1 {mask : BitVec 4} (hmask : maskOk mask = true) (imm12 : BitVec 12) :
    decodeA32 (TableRow.tableWord (encode (.msrImmA1 cond mask imm12))) = .ok (.msrImmA1 cond mask imm12) := by
  obtain ⟨hc, hm, himm⟩ := msrImmA1_fields cond mask imm12
  rw [decodeA32_of_cond hcond hc,
    decodeA32Cond_of_msrImm_row (TableRow.msrImmA1 cond mask imm12) (by rw [hm]; exact maskOk_iff.1 hmask), hc, hm, himm]

theorem decodeA32_ldrA1 (up : Bool) (rn rt : Reg) (imm12 : BitVec 12) :
    decodeA32 (TableRow.tableWord (encode (.ldrA1 cond up rn rt imm12))) = .ok (.ldrA1 cond up rn rt imm12) := by
  obtain ⟨hc, hrn, hrt, himm, hup⟩ := ldrA1_fields cond rn rt up imm12
  rw [decodeA32_of_cond hcond hc, decodeA32Cond_of_ldr_row (TableRow.ldrA1 cond up rn rt imm12) hrn.symm hrt.symm, hc, hup,
    himm]

end

theorem decodeT32_mrsT1 {rd : Reg} (hrd : t32RegOk rd = true) :
    decodeT32 0xF3EF (0x8000 ||| place 16 (regField rd) 8) = .ok (.mrsT1 rd) := by
  have hrow : (0x8000 ||| place 16 (regField rd) 8) &&& 0xF0FF = (0x8000 : Half) := by
    simp (disch := decide) only [or_mask, place_and_eq_zero]
    rfl
  have hfield : field (0x8000 ||| place 16 (regField rd) 8) 8 4 = regField rd := by
    simp (disch := decide) only [field_or, field_place]
    simp [field]
  rw [decodeT32_of_mrs_row hrow, hfield, decodeT32Reg_eq_ok_iff.2 ⟨hrd, rfl⟩]
  rfl

theorem decodeT32_msrRegT1 {mask : BitVec 4} {rn : Reg} (hmask : maskOk mask = true) (hrn : t32RegOk rn = true) :
    decodeT32 (0xF380 ||| place 16 (regField rn) 0) (0x8000 ||| place 16 mask 8) = .ok (.msrRegT1 mask rn) := by
  have hrow1 : (0xF380 ||| place 16 (regField rn) 0) &&& 0xFFF0 = (0xF380 : Half) := by
    simp (disch := decide) only [or_mask, place_and_eq_zero]
    rfl
  have hrow2 : (0x8000 ||| place 16 mask 8) &&& 0xF0FF = (0x8000 : Half) := by
    simp (disch := decide) only [or_mask, place_and_eq_zero]
    rfl
  have hreg : field (0xF380 ||| place 16 (regField rn) 0) 0 4 = regField rn := by
    simp (disch := decide) only [field_or, field_place]
    simp [field]
  have hm : field (0x8000 ||| place 16 mask 8) 8 4 = mask := by
    simp (disch := decide) only [field_or, field_place]
    simp [field]
  rw [decodeT32_of_msrReg_row hrow1 hrow2 (by rw [hm]; exact maskOk_iff.1 hmask), hm, hreg,
    decodeT32Reg_eq_ok_iff.2 ⟨hrn, rfl⟩]
  rfl

/-- The encoding of a well-formed instruction decodes to it. -/
theorem decodeEncoding_encode {i : Instr} (h : i.wellFormed = true) : decodeEncoding (encode i) = .ok i := by
  cases i with
  | cpsieA1 fl mode => exact decodeEncoding_encode_a1 (f := .enable fl mode) h
  | cpsidA1 fl mode => exact decodeEncoding_encode_a1 (f := .disable fl mode) h
  | cpsA1 mode => exact decodeEncoding_encode_a1 (f := .modeOnly mode) h
  | cpsieT2 fl mode => exact decodeEncoding_encode_t2 (f := .enable fl mode) h
  | cpsidT2 fl mode => exact decodeEncoding_encode_t2 (f := .disable fl mode) h
  | cpsT2 mode => exact decodeEncoding_encode_t2 (f := .modeOnly mode) h
  | cpsieT1 fl => rw [encode_cpsieT1]; exact decodeT16_cpsHalfT1 false h
  | cpsidT1 fl => rw [encode_cpsidT1]; exact decodeT16_cpsHalfT1 true h
  | setendBeA1 | setendLeA1 | setpan0A1 | setpan1A1 | setendBeT1 | setendLeT1 | setpan0T1 | setpan1T1 => rfl
  | mrsA1 cond rd => exact decodeA32_mrsA1 h rd
  | msrRegA1 cond mask rn =>
    obtain ⟨hcond, hmask⟩ := Bool.and_eq_true_iff.1 h
    exact decodeA32_msrRegA1 hcond hmask rn
  | msrImmA1 cond mask imm12 =>
    obtain ⟨hcond, hmask⟩ := Bool.and_eq_true_iff.1 h
    exact decodeA32_msrImmA1 hcond hmask imm12
  | ldrA1 cond up rn rt imm12 => exact decodeA32_ldrA1 h up rn rt imm12
  | mrsT1 rd => exact decodeT32_mrsT1 h
  | msrRegT1 mask rn =>
    obtain ⟨hmask, hrn⟩ := Bool.and_eq_true_iff.1 h
    exact decodeT32_msrRegT1 hmask hrn

/-- A CPS T1 halfword begins no 32-bit instruction. -/
theorem lengthOk_cpsHalfT1 (b : Bool) (fl : IFlags) : lengthOk (.t16 (cpsHalfT1 b fl)) = true := by
  have htop : field (cpsHalfT1 b fl) 11 5 = (0b10110 : BitVec 5) := by
    simp (disch := decide) only [cpsHalfT1, field_or, field_placeBit_of_disjoint]
    rfl
  rw [lengthOk, isWide, htop]
  rfl

/-- The encoder's first halfwords have the length that they say. -/
theorem lengthOk_encode (i : Instr) : lengthOk (encode i) = true := by
  cases i with
  | cpsieT1 fl => rw [encode_cpsieT1, lengthOk_cpsHalfT1]
  | cpsidT1 fl => rw [encode_cpsidT1, lengthOk_cpsHalfT1]
  | msrRegT1 mask rn =>
    have htop : field (0xF380 ||| place 16 (regField rn) 0) 11 5 = (0b11110 : BitVec 5) := by
      simp (disch := decide) only [field_or, field_place_of_disjoint]
      rfl
    rw [encode, lengthOk, isWide, htop]
    rfl
  | _ => rfl

/-- An encoding of the right length decodes exactly to the well-formed instruction that is encoded so. -/
theorem decodeEncoding_eq_ok_iff {e : Encoding} {i : Instr} :
    decodeEncoding e = .ok i ↔ i.wellFormed = true ∧ encode i = e := by
  constructor
  · intro h
    cases e with
    | a32 w =>
      change decodeA32 w = .ok i at h
      unfold decodeA32 at h
      split_ifs at h with huncond
      · exact decodeA32Uncond_eq_ok huncond h
      · exact decodeA32Cond_eq_ok (bne_iff_ne.2 huncond) h
    | t16 x => exact decodeT16_eq_ok h
    | t32 x y => exact decodeT32_eq_ok h
  · rintro ⟨hwf, rfl⟩
    exact decodeEncoding_encode hwf

end Sys2Proof.Machine
end

section
/-! SUPPORT. Bytes and encodings: the bytes of an encoding followed by any others decode as that encoding does, and bytes that
decode begin with the bytes of an encoding. Both round trips follow. -/

namespace Sys2Proof.Machine

/-- Decoding reads the bytes of one encoding and leaves the others. -/
theorem decodeBytes_bytes {e : Encoding} (h : lengthOk e = true) (rest : List Byte) :
    decodeBytes e.isT32 (e.bytes ++ rest) = (decodeEncoding e).map fun i => (i, rest) := by
  cases e with
  | a32 w =>
    change (decodeA32 (wordOfBytes _ _ _ _)).map _ = _
    rw [wordOfBytes_wordBytes]
    rfl
  | t16 x =>
    change (if isWide (halfOfBytes _ _) then _ else (decodeT16 (halfOfBytes _ _)).map _) = _
    have hnarrow : ¬ isWide x = true := by simpa [lengthOk] using h
    rw [halfOfBytes_halfBytes, if_neg hnarrow]
    rfl
  | t32 x y =>
    change (if isWide (halfOfBytes _ _) then (decodeT32 (halfOfBytes _ _) (halfOfBytes _ _)).map _ else _) = _
    have hwide : isWide x = true := h
    rw [halfOfBytes_halfBytes, halfOfBytes_halfBytes, if_pos hwide]
    rfl

/-- Bytes that decode are an encoding of the right length, which decodes to the instruction, and the bytes left over. -/
theorem exists_encoding_of_decodeBytes {t : Bool} {bs rest : List Byte} {i : Instr} (h : decodeBytes t bs = .ok (i, rest)) :
    ∃ e : Encoding, e.isT32 = t ∧ e.bytes ++ rest = bs ∧ decodeEncoding e = .ok i := by
  unfold decodeBytes at h
  split at h
  next b0 b1 b2 b3 bs =>
    obtain ⟨j, hj, hi⟩ := exceptMap_eq_ok_iff.1 h
    cases hi
    exact ⟨.a32 (wordOfBytes b0 b1 b2 b3), rfl, by rw [Encoding.bytes, wordBytes_wordOfBytes]; rfl, hj⟩
  next b0 b1 bs =>
    split at h
    · split at h
      next b2 b3 bs =>
        obtain ⟨j, hj, hi⟩ := exceptMap_eq_ok_iff.1 h
        cases hi
        refine ⟨.t32 (halfOfBytes b0 b1) (halfOfBytes b2 b3), rfl, ?_, hj⟩
        rw [Encoding.bytes, halfBytes_halfOfBytes, halfBytes_halfOfBytes]
        rfl
      next => cases h
    · obtain ⟨j, hj, hi⟩ := exceptMap_eq_ok_iff.1 h
      cases hi
      exact ⟨.t16 (halfOfBytes b0 b1), rfl, by rw [Encoding.bytes, halfBytes_halfOfBytes]; rfl, hj⟩
  next => cases h

/-- Settles O1: the bytes of the encoding are read as that encoding, which decodes to the instruction. -/
theorem decodeEncodeRoundTrip : Obligations.DecodeEncodeRoundTrip := by
  intro i rest hwf
  rw [decodeBytes_bytes (lengthOk_encode i), decodeEncoding_encode hwf]
  rfl

/-- Settles O2: the bytes are an encoding, and an encoding that decodes is that of the instruction it decodes to. -/
theorem decodedBytesReencode : Obligations.DecodedBytesReencode := by
  intro t bs i rest h
  obtain ⟨e, ht, hbs, hdecodes⟩ := exists_encoding_of_decodeBytes h
  obtain ⟨hwf, rfl⟩ := decodeEncoding_eq_ok_iff.1 hdecodes
  exact ⟨hwf, ht, hbs⟩

/-- Settles O3: twelve closed words, each decoded by evaluation. -/
theorem knownWordsDecode : Obligations.KnownWordsDecode := by
  refine ⟨?_, ?_, ?_, ?_, ?_, ?_, ?_, ?_, ?_, ?_, ?_, ?_⟩ <;> decide

end Sys2Proof.Machine
end

section
/-! SUPPORT. What every instruction keeps, and how every step ends: a state that keeps the configuration and the environment's
list, to which the environment's next inputs come. -/

namespace Sys2Proof.Machine

open Sys2Proof.Safety

/-! The frame of exec -/

/-- What every instruction keeps: the configuration, memory, the environment's list, what is pending and the record of the
fetch. -/
theorem exec_frame {i : Instr} {s t : State} (h : exec i s = .next t) :
    t.cfg = s.cfg ∧ t.mem = s.mem ∧ t.env = s.env ∧ t.pending = s.pending ∧ t.lastFetch = s.lastFetch := by
  rcases exec_cases h with ⟨n, rfl⟩ | ⟨r, -, rfl⟩ | ⟨-, v, k, rfl⟩ | ⟨-, ⟨b, fl, mode, n, rfl⟩ | ⟨m, rfl⟩⟩ | ⟨-, e, n, rfl⟩
    | ⟨-, -, b, n, rfl⟩ | ⟨cond, up, rn, rt, imm12, v, -, rfl⟩ | ⟨-, rfl⟩
  case inr.inr.inr.inr.inr.inr.inr => exact ⟨rfl, rfl, rfl, rfl, rfl⟩
  all_goals simp

/-- Settles O13: exec keeps memory as it is. -/
theorem noInstructionStores : Obligations.NoInstructionStores := by
  intro i s t h a
  obtain ⟨-, hmem, -⟩ := exec_frame h
  rw [hmem]

/-! The end of a step -/

/-- The next inputs where the environment lists an entry. -/
theorem State.nextInputs_of_cons {s : State} {e : EnvStep} {rest : List EnvStep} (h : s.env = e :: rest) :
    s.nextInputs = { s with inp := e.inp, pending := s.pending.union e.arrivals, env := rest } := by
  rw [State.nextInputs, h]

/-- The next inputs leave pending what is pending. -/
theorem State.nextInputs_pending (s : State) :
    (s.pending.serror = true → s.nextInputs.pending.serror = true) ∧ (s.pending.irq = true → s.nextInputs.pending.irq = true)
      ∧ (s.pending.fiq = true → s.nextInputs.pending.fiq = true) := by
  unfold State.nextInputs
  cases s.env with
  | nil => exact ⟨id, id, id⟩
  | cons e rest => simp +contextual [AsyncSet.union]

/-- What is not deliverable in `s` is pending in `u` exactly if it is in `s`. -/
abbrev keepsUndeliverable (s u : State) : Prop :=
  (.serror ∉ s.deliverable → u.pending.serror = s.pending.serror) ∧ (.irq ∉ s.deliverable → u.pending.irq = s.pending.irq)
    ∧ (.fiq ∉ s.deliverable → u.pending.fiq = s.pending.fiq)

/-- A deliverable asynchronous exception taken changes no pending bit but its own. -/
theorem State.takeAsync_keepsUndeliverable {s : State} {exc : ExcKind} (h : exc ∈ s.deliverable) :
    keepsUndeliverable s (s.drawn.takeAsync exc) := by
  obtain ⟨-, -, -, -, -, -, -, -, -, -, hserror, hirq, hfiq⟩ := s.takeAsync_entered exc
  have hne {exc' : ExcKind} (h' : exc' ∉ s.deliverable) : exc ≠ exc' := fun he => h' (he ▸ h)
  exact ⟨fun hn => hserror (hne hn), fun hn => hirq (hne hn), fun hn => hfiq (hne hn)⟩

/-- A step ends with the next inputs, before which the configuration and the environment's list are those it began with, and so
is what is pending and not deliverable. -/
theorem step_ends {s t : State} (h : step s = .next t) :
    ∃ u : State, t = u.nextInputs ∧ u.cfg = s.cfg ∧ u.env = s.env ∧ keepsUndeliverable s u := by
  have hattempt {s' : State} (h : AttemptLeads s' t) :
      ∃ u : State, t = u.nextInputs ∧ u.cfg = s'.cfg ∧ u.env = s'.env ∧ u.pending = s'.pending := by
    rcases h with ⟨exc, rfl⟩ | ⟨i, u, hexec, rfl⟩
    · exact ⟨_, rfl, rfl, rfl, rfl⟩
    · obtain ⟨hcfg, -, henv, hpending, -⟩ := exec_frame hexec
      obtain ⟨hcfg', -, -, -, -, -, -, henv', hpending', -⟩ := s'.recordFetch_keeps
      obtain ⟨hcfg'', -, -, -, -, -, -, henv'', hpending'', -⟩ := advanceIT_keeps s'.recordFetch u
      exact ⟨_, rfl, hcfg''.trans (hcfg.trans hcfg'), henv''.trans (henv.trans henv'),
        hpending''.trans (hpending.trans hpending')⟩
  rcases step_cases h with h | h | ⟨exc, hmem, rfl⟩
  case inr.inr => exact ⟨_, rfl, rfl, rfl, State.takeAsync_keepsUndeliverable hmem⟩
  all_goals
    obtain ⟨u, ht, hcfg, henv, hpending⟩ := hattempt h
    exact ⟨u, ht, hcfg, henv, by simp [keepsUndeliverable, hpending]⟩

/-- Settles O12: the next inputs keep the configuration and take the head of the list. -/
theorem stepKeepsConfig : Obligations.StepKeepsConfig := by
  intro s t h
  obtain ⟨u, rfl, hcfg, henv, -⟩ := step_ends h
  obtain ⟨hcfg', -, -, -, -, -, henv'⟩ := u.nextInputs_keeps
  refine ⟨hcfg'.trans hcfg, by rw [henv', henv], fun e rest hs => ?_⟩
  rw [State.nextInputs_of_cons (henv.trans hs)]
  simp +contextual [AsyncSet.union]

/-! Masked exceptions -/

/-- What is deliverable is what is pending with its mask bit 0 (60_exceptions.md R222). -/
theorem State.mem_deliverable_iff (s : State) (exc : ExcKind) :
    exc ∈ s.deliverable ↔ match exc with
      | .serror => s.pending.serror = true ∧ s.pstate.a = false
      | .irq => s.pending.irq = true ∧ s.pstate.i = false
      | .fiq => s.pending.fiq = true ∧ s.pstate.f = false
      | .illegalState | .undefinedInstruction => False := by
  cases exc <;> simp [State.deliverable]

/-- What is pending and not deliverable stays pending over a step. -/
theorem step_keeps_undeliverable {s t : State} (h : step s = .next t) :
    (.serror ∉ s.deliverable → s.pending.serror = true → t.pending.serror = true)
      ∧ (.irq ∉ s.deliverable → s.pending.irq = true → t.pending.irq = true)
      ∧ (.fiq ∉ s.deliverable → s.pending.fiq = true → t.pending.fiq = true) := by
  obtain ⟨u, rfl, -, -, hserror, hirq, hfiq⟩ := step_ends h
  obtain ⟨hserror', hirq', hfiq'⟩ := u.nextInputs_pending
  exact ⟨fun hn hp => hserror' ((hserror hn).trans hp), fun hn hp => hirq' ((hirq hn).trans hp),
    fun hn hp => hfiq' ((hfiq hn).trans hp)⟩

/-- Settles O42: a masked exception is not deliverable, so it stays pending to the end of the step and over the next inputs. -/
theorem maskedExceptionsStayPending : Obligations.MaskedExceptionsStayPending := by
  intro s
  refine ⟨fun hmask => ?serror, fun hmask => ?irq, fun hmask => ?fiq, fun hA hI hF => ?attempt⟩
  case serror =>
    have hnot : .serror ∉ s.deliverable := by simp [State.mem_deliverable_iff, hmask]
    exact ⟨hnot, fun t ht => (step_keeps_undeliverable ht).1 hnot⟩
  case irq =>
    have hnot : .irq ∉ s.deliverable := by simp [State.mem_deliverable_iff, hmask]
    exact ⟨hnot, fun t ht => (step_keeps_undeliverable ht).2.1 hnot⟩
  case fiq =>
    have hnot : .fiq ∉ s.deliverable := by simp [State.mem_deliverable_iff, hmask]
    exact ⟨hnot, fun t ht => (step_keeps_undeliverable ht).2.2 hnot⟩
  case attempt =>
    refine State.admission_quiet (List.eq_nil_iff_forall_not_mem.2 fun exc => ?_)
    rw [State.mem_deliverable_iff]
    cases exc <;> simp_all

/-! Unmasked exceptions -/

/-- Every exception of a short list is chosen by some draw. -/
theorem exists_asyncChoice_eq_some {ds : List ExcKind} (hlen : ds.length < 2 ^ 32 - 1) {exc : ExcKind} (h : exc ∈ ds) :
    ∃ w, asyncChoice ds w = some exc := by
  obtain ⟨k, hk, rfl⟩ := List.mem_iff_getElem.1 h
  refine ⟨BitVec.ofNat 32 k, ?_⟩
  rw [asyncChoice, BitVec.toNat_ofNat, Nat.mod_eq_of_lt (show k < 2 ^ 32 by omega), Nat.mod_eq_of_lt (by omega),
    List.getElem?_eq_getElem hk]

/-- Some draw chooses none of a short list. -/
theorem exists_asyncChoice_eq_none {ds : List ExcKind} (hlen : ds.length < 2 ^ 32) : ∃ w, asyncChoice ds w = none := by
  refine ⟨BitVec.ofNat 32 ds.length, ?_⟩
  rw [asyncChoice, BitVec.toNat_ofNat, Nat.mod_eq_of_lt hlen, Nat.mod_eq_of_lt (by omega), List.getElem?_eq_none le_rfl]

/-- At most three exceptions are deliverable. -/
theorem State.length_deliverable_le (s : State) : s.deliverable.length ≤ 3 := by
  unfold State.deliverable
  split <;> split <;> split <;> simp

/-- Settles O43: the draw chooses an index of the list of deliverable exceptions or one past its end. -/
theorem unmaskedExceptionsMayBeTaken : Obligations.UnmaskedExceptionsMayBeTaken := by
  intro s
  have hlen := s.length_deliverable_le
  refine ⟨s.mem_deliverable_iff .serror, s.mem_deliverable_iff .irq, s.mem_deliverable_iff .fiq,
    (s.mem_deliverable_iff .illegalState).1, (s.mem_deliverable_iff .undefinedInstruction).1,
    fun exc hmem => exists_asyncChoice_eq_some (by omega) hmem, exists_asyncChoice_eq_none (by omega), fun hne => ?_⟩
  have hadmission := State.admission_choice hne
  split
  next exc hchoice =>
    rw [hchoice] at hadmission
    exact ⟨asyncChoice_mem hchoice, _, s.takeAsync_entered exc, by rw [step, hadmission]⟩
  next hchoice => rw [hadmission, hchoice]

end Sys2Proof.Machine
end

section
/-! SUPPORT. The invariant: a change of PSTATE that leaves it reachable keeps it, and so it is kept by the write of M and of the
CPSR, by every exception entry and return, by every instruction and by every step. Both forms of reset give it. -/

namespace Sys2Proof.Machine

open Sys2Proof.Safety

/-! Reachable values of PSTATE -/

/-- A state with the configuration, memory and SPSRs of one that meets the invariant and a reachable PSTATE meets it. -/
theorem inv_of_pstate {s t : State} (h : Inv s) (hcfg : t.cfg = s.cfg) (hmem : t.mem = s.mem) (hspsr : t.spsr = s.spsr)
    (hp : pstateOk s.cfg t.pstate) : Inv t := by
  obtain ⟨hok, -, hwf, hj⟩ := h
  rw [← hcfg] at hok hp
  rw [← hmem] at hwf
  rw [← hspsr] at hj
  exact ⟨hok, hp, hwf, hj⟩

/-- A write of M leaves a reachable PSTATE reachable: an illegal change leaves M, a legal one names a permitted mode. -/
theorem State.writeMode_pstateOk {s : State} (hok : configOk s.cfg) (h : pstateOk s.cfg s.pstate) (m : BitVec 5) :
    pstateOk s.cfg (s.writeMode m).pstate := by
  rcases s.writeMode_cases m with ⟨-, he⟩ | ⟨hlegal, he⟩
  · rw [he]; exact h
  · rw [he]
    by_cases hm : m = s.pstate.m
    · rw [hm]; exact h
    · obtain ⟨-, -, hrest⟩ := h
      have hperm := permitted_of_legal hlegal hm
      obtain ⟨md, hmd, -⟩ := permittedMode_iff.1 hperm
      exact ⟨hperm, bit4_of_modeOf hok hmd, hrest⟩

/-- The lanes of a CPSR write leave a reachable PSTATE reachable: E is written where both byte orders exist, and a field where
its feature does. -/
theorem cpsrWriteFields_pstateOk {c : Config} {p : PState} (h : pstateOk c p) (privileged : Bool) (v : Word)
    (mask : BitVec 4) : pstateOk c (cpsrWriteFields c privileged v mask p) := by
  obtain ⟨hperm, hm4, hj, he, huinj, hpan, hdit, hssbs⟩ := h
  refine ⟨hperm, hm4, hj, ?_, huinj, ?_, ?_, ?_⟩ <;> intro hc <;> simp [cpsrWriteFields, *]

theorem State.cpsrWrite_pstateOk {s : State} (hok : configOk s.cfg) (h : pstateOk s.cfg s.pstate) (v : Word)
    (mask : BitVec 4) : pstateOk s.cfg (s.cpsrWrite v mask).pstate := by
  have hfields := cpsrWriteFields_pstateOk h (!s.pl0) v mask
  rw [State.cpsrWrite_eq]
  split
  · exact State.writeMode_pstateOk (s := { s with pstate := cpsrWriteFields s.cfg (!s.pl0) v mask s.pstate }) hok hfields _
  · exact hfields

theorem State.cpsMasks_pstateOk {s : State} (hok : configOk s.cfg) (h : pstateOk s.cfg s.pstate) (b : Bool) (fl : IFlags)
    (mode : Option (BitVec 5)) : pstateOk s.cfg (s.cpsMasks b fl mode).pstate := by
  unfold State.cpsMasks
  split
  · exact h
  · cases mode with
    | none => exact h
    | some m => exact State.writeMode_pstateOk (s := { s with pstate := setMasks b fl s.pstate }) hok h m

theorem State.setE_pstateOk {s : State} (h : pstateOk s.cfg s.pstate) (e : Bool) : pstateOk s.cfg (s.setE e).pstate := by
  obtain ⟨hperm, hm4, hj, he, habsent⟩ := h
  exact ⟨hperm, hm4, hj, fun hone => by simp [hone, he hone], habsent⟩

theorem State.setPan_pstateOk {s : State} (h : pstateOk s.cfg s.pstate) (hpan : s.cfg.havePAN = true) (b : Bool) :
    pstateOk s.cfg (s.setPan b).pstate := by
  obtain ⟨hperm, hm4, hj, he, huinj, -, hdit, hssbs⟩ := h
  rw [State.setPan_pstate]
  exact ⟨hperm, hm4, hj, he, huinj, fun hno => absurd hpan (Bool.eq_false_iff.1 hno), hdit, hssbs⟩

/-! Entry and return -/

/-- The PSTATE of an entry to an implemented mode is reachable. -/
theorem entryPState_pstateOk {c : Config} (hok : configOk c) {old : PState} (h : pstateOk c old) (inp : Inputs) (exc : ExcKind)
    {target : Mode} (himpl : c.modeImplemented.get target = true) : pstateOk c (entryPState c inp exc target old) := by
  obtain ⟨-, -, hj, he, huinj, hpan, hdit, hssbs⟩ := h
  refine ⟨permittedMode_iff.2 ⟨target, modeOf_modeCode hok target, himpl⟩, bit4_modeCode hok target, hj, ?_, ?_, ?_, hdit, ?_⟩
    <;> intro hc <;> simp [entryPState, *]

/-- An entry to an implemented mode keeps the invariant. -/
theorem State.enterException_inv {s : State} (h : Inv s) (exc : ExcKind) {target : Mode}
    (himpl : s.cfg.modeImplemented.get target = true) : Inv (s.enterException exc target) := by
  obtain ⟨hok, hp, hwf, hj⟩ := h
  refine ⟨hok, entryPState_pstateOk hok hp s.inp exc himpl, hwf, fun md hmd => ?_⟩
  rw [State.enterException_spsr]
  by_cases hmt : md = target
  · rw [hmt, PerMode.get_set_same]; rfl
  · rw [PerMode.get_set_other _ _ hmt]; exact hj md hmd

/-- Taking an exception keeps the invariant: a coherent configuration takes it to an implemented mode. -/
theorem State.takeException_inv {s : State} (h : Inv s) (exc : ExcKind) : Inv (s.takeException exc) := by
  have ⟨⟨_, _, _, htargets⟩, _⟩ := h
  exact State.enterException_inv h exc
    (htargets exc (mem_allExceptions exc) _ (exceptionTarget_mem s.cfg s.inp exc s.pstate.m)).1

/-- What a return can do. -/
theorem State.exceptionReturn_next {s t : State} (h : s.exceptionReturn = .next t) :
    ∃ md, s.mode = some md ∧ s.returnPermitted (s.spsr.get md) = true
      ∧ t.cfg = s.cfg ∧ t.mem = s.mem ∧ t.spsr = s.spsr ∧ t.x = s.x
      ∧ t.pstate = returnPState s.cfg s.pstate (s.spsr.get md) := by
  unfold State.exceptionReturn at h
  split at h
  · cases h
  · dsimp only at h
    split at h
    next md hmd hperm => cases h; exact ⟨md, hmd, hperm, rfl, rfl, rfl, rfl, rfl⟩
    next => cases h

/-- The PSTATE of a return to a permitted mode is reachable. -/
theorem returnPState_pstateOk {c : Config} (hok : configOk c) {now saved : PState} (h : pstateOk c now)
    (hperm : permittedMode c saved.m = true) : pstateOk c (returnPState c now saved) := by
  obtain ⟨-, -, -, he, huinj, hpan, hdit, hssbs⟩ := h
  obtain ⟨md, hmd, -⟩ := permittedMode_iff.1 hperm
  refine ⟨hperm, bit4_of_modeOf hok hmd, rfl, ?_, ?_, ?_, ?_, ?_⟩ <;> intro hc <;> simp [returnPState, *]

/-- Settles O11: an entry is to an implemented mode, a return to a permitted one. -/
theorem entryAndReturnKeepInvariant : Obligations.EntryAndReturnKeepInvariant := by
  intro s hInv
  refine ⟨fun exc => State.takeException_inv hInv exc, fun t h => ?_⟩
  obtain ⟨md, -, hperm, hcfg, hmem, hspsr, -, hpstate⟩ := State.exceptionReturn_next h
  refine inv_of_pstate hInv hcfg hmem hspsr ?_
  rw [hpstate]
  obtain ⟨hok, hp, -⟩ := hInv
  exact returnPState_pstateOk hok hp (Bool.and_eq_true_iff.1 hperm).1

/-! Instructions and steps -/

/-- Every instruction keeps the invariant. -/
theorem exec_inv {i : Instr} {s t : State} (hInv : Inv s) (h : exec i s = .next t) : Inv t := by
  have ⟨hok, hp, _⟩ := hInv
  rcases exec_cases h with ⟨n, rfl⟩ | ⟨r, -, rfl⟩ | ⟨-, v, k, rfl⟩ | ⟨-, ⟨b, fl, mode, n, rfl⟩ | ⟨m, rfl⟩⟩ | ⟨-, e, n, rfl⟩
    | ⟨-, hpan, b, n, rfl⟩ | ⟨cond, up, rn, rt, imm12, v, -, rfl⟩ | ⟨-, rfl⟩
  · exact hInv
  · exact inv_of_pstate hInv (by simp) (by simp) (by simp) (by simpa using hp)
  · exact inv_of_pstate hInv (by simp) (by simp) (by simp) (State.cpsrWrite_pstateOk hok hp v k)
  · exact inv_of_pstate hInv (by simp) (by simp) (by simp) (State.cpsMasks_pstateOk hok hp b fl mode)
  · rw [State.cpsMode_eq_cpsMasks s false]
    exact inv_of_pstate hInv (by simp) (by simp) (by simp) (State.cpsMasks_pstateOk hok hp false _ _)
  · exact inv_of_pstate hInv rfl rfl rfl (State.setE_pstateOk hp e)
  · exact inv_of_pstate hInv (by simp) (by simp) (by simp) (State.setPan_pstateOk hp hpan b)
  · exact hInv
  · exact State.takeException_inv hInv .undefinedInstruction

/-- The next inputs keep the invariant. -/
theorem State.nextInputs_inv {s : State} (h : Inv s) : Inv s.nextInputs := by
  obtain ⟨hcfg, hpstate, hspsr, -, -, hmem, -⟩ := s.nextInputs_keeps
  have ⟨_, hp, _⟩ := h
  exact inv_of_pstate h hcfg hmem hspsr (by rwa [hpstate])

/-- The advance of IT keeps the invariant. -/
theorem advanceIT_inv (s : State) {t : State} (h : Inv t) : Inv (advanceIT s t) := by
  obtain ⟨hcfg, hpstate, hspsr, -, -, hmem, -⟩ := advanceIT_keeps s t
  have ⟨_, hp, _⟩ := h
  exact inv_of_pstate h hcfg hmem hspsr (by rw [hpstate]; exact hp)

/-- The record of a fetch keeps the invariant. -/
theorem State.recordFetch_inv {s : State} (h : Inv s) : Inv s.recordFetch := by
  obtain ⟨hcfg, hpstate, hspsr, -, -, hmem, -⟩ := s.recordFetch_keeps
  have ⟨_, hp, _⟩ := h
  exact inv_of_pstate h hcfg hmem hspsr (by rwa [hpstate])

/-- An attempt to execute keeps the invariant to the end of the step. -/
theorem attemptLeads_inv {s t : State} (hInv : Inv s) (h : AttemptLeads s t) : Inv t := by
  rcases h with ⟨exc, rfl⟩ | ⟨i, u, hexec, rfl⟩
  · exact State.nextInputs_inv (State.takeException_inv hInv exc)
  · exact State.nextInputs_inv (advanceIT_inv _ (exec_inv (State.recordFetch_inv hInv) hexec))

/-- Settles O10: a step attempts an instruction, at once or after a draw, or takes an asynchronous exception. -/
theorem stepKeepsInvariant : Obligations.StepKeepsInvariant := by
  intro s t hInv h
  rcases step_cases h with h | h | ⟨exc, -, rfl⟩
  · exact attemptLeads_inv hInv h
  · exact attemptLeads_inv (s := s.drawn) hInv h
  · exact State.nextInputs_inv (s := s.drawn.takeAsync exc) (State.takeException_inv (s := s.drawn) hInv exc)

/-! Resets -/

/-- The PSTATE of a reset is reachable. -/
theorem resetPState_pstateOk {c : Config} (hok : configOk c) (d : ResetDraws) : pstateOk c (resetPState c d) := by
  have ⟨_, _, hperm, _⟩ := hok
  obtain ⟨md, hmd, -⟩ := permittedMode_iff.1 hperm
  refine ⟨hperm, bit4_of_modeOf hok hmd, rfl, ?_, ?_, ?_, ?_, ?_⟩ <;> intro hc <;> simp [resetPState, hc]

/-- A Warm reset at power-up meets the invariant. -/
theorem State.warmReset_inv {c : Config} (hok : configOk c) (i : Inputs) {d : ResetDraws} (hwf : d.mem.wf) :
    Inv (State.warmReset c i d) := by
  refine ⟨hok, resetPState_pstateOk hok d, hwf, fun md _ => ?_⟩
  rw [State.warmReset, PerMode.get_map]
  rfl

/-- Settles O9: a reset of a running machine differs from one at power-up in nothing the invariant reads. -/
theorem warmResetMeetsInvariant : Obligations.WarmResetMeetsInvariant :=
  fun _ i _ hwf => ⟨fun hok => State.warmReset_inv hok i hwf, fun s hok => State.warmReset_inv hok s.inp hwf⟩

/-- Settles O8: the reference configuration is coherent. -/
theorem resetMeetsInvariant : Obligations.ResetMeetsInvariant :=
  State.warmReset_inv (by decide) referenceInputs ⟨.nil, nofun⟩

/-- Settles O6: every field the source leaves open is the draw's, in both forms of reset. -/
theorem warmResetLeavesDraws : Obligations.WarmResetLeavesDraws := by
  intro c i d drawn
  have hReset {t : State} (hp : t.pstate = resetPState c d) (hspsr : t.spsr = d.spsr.map savedPState)
      (hrest : t.x = d.x ∧ t.pc = d.pc ∧ t.mem = d.mem) : drawn t := by
    obtain ⟨hx, hpc, hmem⟩ := hrest
    refine ⟨?_, ?_, ?_, ?_, ?_, ?_, fun hpan => ?_, fun hone => ?_, hx, fun md => ?spsr, hpc, hmem⟩
    case spsr => rw [hspsr, PerMode.get_map]; rfl
    all_goals simp [resetPState, *]
  exact ⟨hReset rfl rfl ⟨rfl, rfl, rfl⟩, fun s hs => by subst hs; exact hReset rfl rfl ⟨rfl, rfl, rfl⟩⟩

/-- Settles O7: with both byte orders E and the equivalent EE bit hold the same reset value. -/
theorem resetByteOrderIsEE : Obligations.ResetByteOrderIsEE := by
  intro c i d hboth s
  have hE : s.pstate.e = c.resetEE := resetPState_e_of_bothEndian d hboth
  rw [hE]
  cases h : c.highestELIsEL2 <;> simp [s, State.warmReset, resetInputs, h]

end Sys2Proof.Machine
end

section
/-! SUPPORT. MSR and CPS as one operation: each completes as a write of PSTATE fields other than M followed by a write of M, so
what a write of M can do bounds them all. The T32 forms of CPS, SETEND and SETPAN, and only these, are refused inside an IT
block. -/

namespace Sys2Proof.Machine

open Sys2Proof.Safety

/-! Inside an IT block -/

/-- A T32 form is refused for the IT block exactly inside one, where what it runs is not refused so. -/
theorem outsideItBlock_refused_iff {s : State} {run : Host.Outcome State Fault Refusal} (h : run ≠ .refused .insideItBlock) :
    outsideItBlock s run = .refused .insideItBlock ↔ s.pstate.it ≠ 0 := by
  unfold outsideItBlock
  split
  next hit => exact iff_of_false h (not_not_intro hit)
  next hit => exact iff_of_true rfl hit

theorem setend_ne_insideItBlock (e : Bool) (n : Nat) (s : State) : setend e n s ≠ .refused .insideItBlock := by
  unfold setend
  split
  · nofun
  · split <;> nofun

theorem execLdrA1_ne_refused (cond : BitVec 4) (up : Bool) (rn rt : Reg) (imm12 : BitVec 12) (s : State) (r : Refusal) :
    execLdrA1 cond up rn rt imm12 s ≠ .refused r := by
  unfold execLdrA1
  split
  · nofun
  · split <;> nofun

/-- Settles O32: the forms named run under `outsideItBlock`; nothing else answers its refusal. -/
theorem refusedInsideItBlock : Obligations.RefusedInsideItBlock := by
  intro i s
  have hInside {run} (hi : isT32Unconditional i = true) (hrun : run ≠ .refused .insideItBlock) :
      outsideItBlock s run = .refused .insideItBlock ↔ (isT32Unconditional i = true ∧ s.pstate.it ≠ 0) := by
    rw [outsideItBlock_refused_iff hrun, hi, eq_self, true_and]
  have hNever (hi : isT32Unconditional i = false) (hrun : exec i s ≠ .refused .insideItBlock) :
      exec i s = .refused .insideItBlock ↔ (isT32Unconditional i = true ∧ s.pstate.it ≠ 0) :=
    iff_of_false hrun fun h => Bool.eq_false_iff.1 hi h.1
  cases i with
  | cpsieT1 | cpsidT1 | cpsieT2 | cpsidT2 | cpsT2 | setpan0T1 | setpan1T1 => exact hInside rfl nofun
  | setendBeT1 | setendLeT1 => exact hInside rfl (setend_ne_insideItBlock _ _ s)
  | setendBeA1 | setendLeA1 => exact hNever rfl (setend_ne_insideItBlock _ _ s)
  | ldrA1 => exact hNever rfl (execLdrA1_ne_refused _ _ _ _ _ s _)
  | cpsieA1 | cpsidA1 | cpsA1 | setpan0A1 | setpan1A1 | mrsA1 | msrRegA1 | msrImmA1 | mrsT1 | msrRegT1 =>
    exact hNever rfl nofun

/-- A T32 CPS, SETEND or SETPAN that completes is outside an IT block. -/
theorem it_zero_of_exec_next {i : Instr} {s t : State} (h : exec i s = .next t) (hi : isT32Unconditional i = true) :
    s.pstate.it = 0 := by
  by_contra hit
  rw [(refusedInsideItBlock i s).2 ⟨hi, hit⟩] at h
  cases h

/-! MSR and CPS as a write of fields and a write of M -/

/-- Every MSR and CPS that completes writes PSTATE fields other than M, then M (perhaps its own value), and moves the pc. -/
theorem exec_eq_writeMode {i : Instr} {s t : State} (hi : isMsr i = true ∨ isCps i = true) (h : exec i s = .next t) :
    ∃ (p : PState) (m : BitVec 5) (n : Nat), p.m = s.pstate.m ∧ t = (State.writeMode { s with pstate := p } m).advance n := by
  have hself (p : PState) : ({ s with pstate := p } : State) = State.writeMode { s with pstate := p } p.m :=
    (State.writeMode_self { s with pstate := p }).symm
  rcases hi with hMsr | hCps
  · obtain ⟨passed, v, mask, hexec⟩ := exec_msr_eq_cpsrWrite s hMsr
    rw [h] at hexec
    cases hexec
    cases passed with
    | false => exact ⟨s.pstate, s.pstate.m, 4, rfl, congrArg (State.advance · 4) (hself s.pstate)⟩
    | true =>
      refine ⟨cpsrWriteFields s.cfg (!s.pl0) v mask s.pstate, if laneC mask && !s.pl0 then field v 0 5 else s.pstate.m, 4,
        rfl, congrArg (State.advance · 4) ?_⟩
      rw [if_pos rfl, State.cpsrWrite_eq]
      split
      · rfl
      · exact hself _
  · obtain ⟨b, fl, mode, hexec⟩ := exec_cps_eq_cpsMasks hCps (it_zero_of_exec_next h)
    rw [h] at hexec
    cases hexec
    unfold State.cpsMasks
    split
    · exact ⟨s.pstate, s.pstate.m, _, rfl, congrArg (State.advance · _) (hself s.pstate)⟩
    · cases mode with
      | none => exact ⟨setMasks b fl s.pstate, s.pstate.m, _, rfl, congrArg (State.advance · _) (hself _)⟩
      | some m => exact ⟨setMasks b fl s.pstate, m, _, rfl, rfl⟩

/-- With M unchanged the Security state a change enters is the current one. -/
theorem targetSecurity_self (c : Config) (inp : Inputs) (m : BitVec 5) : targetSecurity c inp m m = inp.security :=
  if_neg fun ⟨h, hne⟩ => hne h

/-- The inputs after a write of M: the Security state is that of the value M then holds (44 R193). -/
theorem State.writeMode_inp (s : State) (m : BitVec 5) :
    (s.writeMode m).inp = { s.inp with security := targetSecurity s.cfg s.inp s.pstate.m (s.writeMode m).pstate.m } := by
  rcases s.writeMode_cases m with ⟨-, he⟩ | ⟨-, he⟩
  · rw [he, State.setIL_pstate, targetSecurity_self]; rfl
  · rw [he]; rfl

/-- The frame that MSR and CPS share. -/
theorem exec_writeMode_frame {i : Instr} {s t : State} (hi : isMsr i = true ∨ isCps i = true) (h : exec i s = .next t) :
    sameRegs s t ∧ sameOutside s t ∧ t.freeCount = s.freeCount
      ∧ t.inp = { s.inp with security := targetSecurity s.cfg s.inp s.pstate.m t.pstate.m }
      ∧ (t.pstate.m = s.pstate.m → sameInputs s t) := by
  obtain ⟨p, m, n, hpm, rfl⟩ := exec_eq_writeMode hi h
  let written : State := { s with pstate := p }
  refine ⟨fun r => ?regs, ?outside, written.writeMode_freeCount m, ?inp, fun hm => ?same⟩
  case regs => exact congrArg (fun x : Vector Word 15 => x[r]) (written.writeMode_x m)
  case outside =>
    exact ⟨written.writeMode_cfg m, written.writeMode_spsr m, fun a => congrArg (Memory.read · a) (written.writeMode_mem m),
      written.writeMode_env m, written.writeMode_pending m, written.writeMode_lastFetch m⟩
  case inp => rw [← hpm]; exact written.writeMode_inp m
  case same => exact State.writeMode_same (s := written) (hm.trans hpm.symm)

/-- Settles O24: the frame that MSR shares with CPS. -/
theorem msrFrame : Obligations.MsrFrame := fun _ _ _ hi h => exec_writeMode_frame (.inl hi) h

/-- CPSOp leaves every PSTATE field but A, I, F, M and IL. -/
theorem State.cpsMasks_pstate_frame (s : State) (b : Bool) (fl : IFlags) (mode : Option (BitVec 5)) :
    ∃ a i f m il, (s.cpsMasks b fl mode).pstate = { s.pstate with a := a, i := i, f := f, m := m, il := il } := by
  cases hpl : s.pl0 with
  | true => rw [State.cpsMasks_of_user hpl]; exact ⟨_, _, _, _, _, rfl⟩
  | false => exact ⟨_, _, _, _, _, (State.cpsMasks_masksWritten hpl b fl mode).1⟩

/-- Settles O31: CPSOp writes A, I, F, M and IL, and the rest is the frame it shares with MSR. -/
theorem cpsFrame : Obligations.CpsFrame := by
  intro i s t hi h
  have hframe := exec_writeMode_frame (.inr hi) h
  obtain ⟨b, fl, mode, hexec⟩ := exec_cps_eq_cpsMasks hi (it_zero_of_exec_next h)
  obtain ⟨a, i', f, m, il, hp⟩ := s.cpsMasks_pstate_frame b fl mode
  have ht : t.pstate = (s.cpsMasks b fl mode).pstate := by
    rw [h] at hexec
    cases hexec
    rfl
  rw [hp] at ht
  refine ⟨?_, ?_, ?_, ?_, ?_, ?_, hframe⟩ <;> simp [sameFlags, sameHidden, ht]

/-- Settles O30: at PL0 CPSOp has no effect. -/
theorem cpsAtUserDoesNothing : Obligations.CpsAtUserDoesNothing := by
  intro i s hi hpl hit
  obtain ⟨b, fl, mode, hexec⟩ := exec_cps_eq_cpsMasks hi hit
  rw [hexec, State.cpsMasks_of_user hpl]

/-- CPS of the value M holds changes nothing. -/
theorem State.cpsMode_self (s : State) : s.cpsMode s.pstate.m = s := by
  unfold State.cpsMode
  split
  · rfl
  · exact s.writeMode_self

/-- Settles O36: both forms run CPS of the value M holds. -/
theorem currentModeWriteChangesNothing : Obligations.CurrentModeWriteChangesNothing := by
  intro s
  have hrun : (s.cpsMode s.pstate.m).advance 4 = s.advance 4 := by rw [s.cpsMode_self]
  exact ⟨congrArg _ hrun, fun hit => (outsideItBlock_of_it_zero hit _).trans (congrArg _ hrun)⟩

/-! Illegal changes -/

/-- Some clause holds exactly where one of the eight does (44 R191). -/
theorem exists_illegalClause {P : IllegalClause → Prop} :
    (∃ k, P k) ↔ P .notInTable ∨ P .notImplemented ∨ P .higherLevel ∨ P .monitorFromNonSecure ∨ P .monitorFromSecureEL1
      ∨ P .toHyp ∨ P .fromHyp ∨ P .tgeFromMonitor := by
  constructor
  · rintro ⟨k, hk⟩
    cases k <;> simp [hk]
  · rintro (h | h | h | h | h | h | h | h) <;> exact ⟨_, h⟩

/-- Settles O33: a reserved value meets the first clause; of a mode's value each other clause is one of the disjuncts. -/
theorem illegalChangesAreTheListed : Obligations.IllegalChangesAreTheListed := by
  intro c inp cur new hne
  rw [illegalModeChange_iff hne, exists_illegalClause]
  cases hm : modeOf c new with
  | none => simp [clauseApplies, hm]
  | some md => simp [clauseApplies, hm, and_assoc]

/-- A write of M neither enters nor leaves Hyp mode, nor enters Monitor mode from Non-secure state (44 R191 (3b), (3d), (3e)). -/
theorem State.writeMode_closed (s : State) (m : BitVec 5) :
    ((s.writeMode m).pstate.m = modeCode s.cfg .hyp ↔ s.pstate.m = modeCode s.cfg .hyp)
      ∧ (s.inp.security = .nonSecure → (s.writeMode m).pstate.m = modeCode s.cfg .monitor →
        s.pstate.m = modeCode s.cfg .monitor) := by
  rcases s.writeMode_cases m with ⟨-, he⟩ | ⟨hlegal, he⟩
  · rw [he]; exact ⟨.rfl, fun _ => id⟩
  · rw [he]
    by_cases hm : m = s.pstate.m
    · rw [hm]; exact ⟨.rfl, fun _ => id⟩
    · have hto := clause_of_legal hlegal hm .toHyp
      have hfrom := clause_of_legal hlegal hm .fromHyp
      have hmonitor := clause_of_legal hlegal hm .monitorFromNonSecure
      simp only [clauseApplies, beq_eq_false_iff_ne] at hto hfrom
      refine ⟨iff_of_false hto hfrom, fun hns heq => ?_⟩
      simp [clauseApplies, hns, show m = modeCode s.cfg .monitor from heq] at hmonitor

/-- Settles O34: every MSR and CPS writes M by the one operation. -/
theorem hypAndMonitorAreClosed : Obligations.HypAndMonitorAreClosed := by
  intro i s t hi h
  obtain ⟨p, m, n, hpm, rfl⟩ := exec_eq_writeMode hi h
  rw [← hpm]
  exact State.writeMode_closed { s with pstate := p } m

/-- An MSR or CPS that changes the fetch context leaves the old one open, and keeps the open ones. -/
theorem exec_stale {i : Instr} {s t : State} (hi : isMsr i = true ∨ isCps i = true) (h : exec i s = .next t) :
    (t.context ≠ s.context → s.context ∈ t.stale) ∧ ∀ k ∈ s.stale, k ∈ t.stale := by
  obtain ⟨p, m, n, hpm, rfl⟩ := exec_eq_writeMode hi h
  have hcontext : State.context { s with pstate := p } = s.context := by simp only [State.context, hpm]
  rw [← hcontext]
  exact State.writeMode_stale { s with pstate := p } m

end Sys2Proof.Machine
end

section
/-! SUPPORT. Exceptions: an entry field by field, the exceptions that take the place of an instruction, the return right after an
entry, and the fetch window. -/

namespace Sys2Proof.Machine

open Sys2Proof.Safety

/-! Entry -/

/-- Every value of the EntryMask parameter names one of A, I, F (60_exceptions.md R215). -/
theorem entrySets_some (mask : EntryMask) : entrySetsA mask = true ∨ entrySetsI mask = true ∨ entrySetsF mask = true := by
  cases mask <;> decide

/-- Settles O39: the fields of `entryPState` that 60_exceptions.md leaves to parameters, and what an entry does not write. -/
theorem entryUnstatedFields : Obligations.EntryUnstatedFields := by
  intro s exc target t mask
  refine ⟨rfl, rfl, rfl, ?some, ⟨rfl, rfl, rfl, rfl, rfl, rfl⟩, rfl, rfl, ?pan, ?ssbs, ?monitor, ?others, rfl, fun _ => rfl,
    rfl⟩
  case some =>
    show (s.pstate.a || entrySetsA mask) = true ∨ (s.pstate.i || entrySetsI mask) = true
      ∨ (s.pstate.f || entrySetsF mask) = true
    rcases entrySets_some mask with h | h | h <;> simp [h]
  case pan => exact fun h => if_pos h
  case ssbs => exact fun h => if_pos h
  case monitor =>
    rintro rfl
    exact ⟨entryPState_t s.cfg s.inp exc .monitor s.pstate, fun hboth => by
      rw [State.enterException_pstate, entryPState_e, if_pos hboth]; rfl⟩
  case others => exact fun md hmd => PerMode.get_set_other s.spsr _ hmd

/-- A step in which nothing is deliverable and the attempt takes an exception takes it and the next inputs: what the entry
leaves. -/
theorem step_of_attempt_took {s : State} {exc : ExcKind} (hquiet : s.deliverable = [])
    (htook : s.attempt = .took (s.takeException exc)) :
    let target := exceptionTarget s.cfg s.inp exc s.pstate.m
    let t := (s.takeException exc).nextInputs
    step s = .next t ∧ t.x = s.x ∧ t.mem = s.mem ∧ t.spsr.get target = { s.pstate with j := false }
      ∧ t.pstate = (s.enterException exc target).pstate := by
  intro target t
  obtain ⟨-, hpstate, hspsr, hx, -, hmem, -⟩ := (s.takeException exc).nextInputs_keeps
  refine ⟨by rw [step, State.admission_quiet hquiet, htook], hx, hmem, ?_, hpstate⟩
  rw [hspsr]
  exact PerMode.get_set_same s.spsr target (savedPState s.pstate)

/-- Settles O37: with IL = 1 the attempt takes the Illegal Execution state exception, which clears IL. -/
theorem illegalStateTakesException : Obligations.IllegalStateTakesException := by
  intro s hil hquiet target t
  obtain ⟨hstep, hx, hmem, hspsr, hpstate⟩ := step_of_attempt_took hquiet (if_pos hil)
  exact ⟨hstep, hx, hmem, hspsr, by rw [hpstate]; rfl, by rw [hpstate]; rfl, hpstate⟩

/-- Settles O41: with UINJ = 1 and IL = 0 the attempt takes Undefined Instruction, whose entry clears UINJ. -/
theorem uinjTakesUndefinedInstruction : Obligations.UinjTakesUndefinedInstruction := by
  intro s hhave huinj hil hquiet target t
  have htook : s.attempt = .took (s.takeException .undefinedInstruction) := by simp [State.attempt, hil, hhave, huinj]
  obtain ⟨hstep, hx, hmem, hspsr, hpstate⟩ := step_of_attempt_took hquiet htook
  exact ⟨hstep, hx, hmem, hspsr, by rw [hpstate]; rfl,
    by rw [hpstate]; exact entryPState_uinj_of_haveUINJ s.cfg s.inp .undefinedInstruction target s.pstate hhave, hpstate⟩

/-! The return right after an entry -/

/-- In a coherent configuration an entry leaves the machine in its target mode. -/
theorem State.enterException_mode {s : State} (h : configOk s.cfg) (exc : ExcKind) (target : Mode) :
    (s.enterException exc target).mode = some target := modeOf_modeCode h target

/-- A return from a mode whose SPSR permits it completes. -/
theorem State.exceptionReturn_of_permitted {s : State} {md : Mode} (hmode : s.mode = some md)
    (hperm : s.returnPermitted (s.spsr.get md) = true) :
    ∃ t, s.exceptionReturn = .next t ∧ t.pstate = returnPState s.cfg s.pstate (s.spsr.get md) ∧ t.x = s.x ∧ t.mem = s.mem := by
  unfold State.exceptionReturn
  simp only [hmode, hperm, if_true]
  exact ⟨_, rfl, rfl, rfl, rfl⟩

/-- A return from what an entry saved gives back a reachable PSTATE: what the return keeps, the entry kept. -/
theorem returnPState_entryPState {c : Config} {p : PState} (h : pstateOk c p) (inp : Inputs) (exc : ExcKind) (target : Mode) :
    returnPState c (entryPState c inp exc target p) (savedPState p) = p := by
  obtain ⟨-, -, hj, -⟩ := h
  have hite {α : Type} (b : Bool) (x y : α) : (if b then x else if b then y else x) = x := by cases b <;> rfl
  simp only [returnPState, entryPState, savedPState, hite, ite_self, ← hj]

/-- Settles O40: the return reads the SPSR the entry wrote. -/
theorem returnRestoresPstate : Obligations.ReturnRestoresPstate := by
  intro s exc target hInv hperm
  have hsaved : (s.enterException exc target).spsr.get target = savedPState s.pstate := PerMode.get_set_same s.spsr target _
  have ⟨hok, hp, _⟩ := hInv
  obtain ⟨t, ht, hpstate, hx, hmem⟩ :=
    State.exceptionReturn_of_permitted (State.enterException_mode hok exc target) (by rwa [hsaved])
  refine ⟨t, ht, ?_, hx, hmem⟩
  rw [hpstate, hsaved]
  exact returnPState_entryPState hp s.inp exc target

/-! The fetch window -/

/-- The context a fetch records is the current one or an open old one. -/
theorem State.recordFetch_lastFetch (s : State) :
    s.recordFetch.lastFetch ∈ s.context :: s.stale ∧ (s.stale = [] → s.recordFetch.lastFetch = s.context) := by
  unfold State.recordFetch
  split
  next h => simp
  next old more h =>
    refine ⟨?_, fun hnil => by simp [hnil] at h⟩
    have hlt : s.freeWord.toNat % (more.length + 2) < (s.context :: old :: more).length := Nat.mod_lt _ (by omega)
    rw [h]
    change List.getD _ _ _ ∈ _
    rw [List.getD_eq_getElem _ _ hlt]
    exact List.getElem_mem hlt

/-- Settles O44: the three parts are the write of M by MSR and CPS, the choice of the fetch, and the entry's own condition. -/
theorem fetchWindow : Obligations.FetchWindow :=
  ⟨fun _ _ _ => exec_stale, State.recordFetch_lastFetch, fun _ _ _ h => if_pos h⟩

/-! An attempt that fetches -/

/-- Where nothing comes before the instruction a step fetches and decodes. -/
theorem step_of_fetch {s : State} (hquiet : s.deliverable = []) (hil : s.pstate.il = false)
    (huinj : (s.cfg.haveUINJ && s.pstate.uinj) = false) : s.admission = s.fetchDecode := by
  rw [State.admission_quiet hquiet, State.attempt, if_neg (Bool.eq_false_iff.1 hil), if_neg (Bool.eq_false_iff.1 huinj)]

/-- The advance of IT reads only IT and T of the state before. -/
theorem advanceIT_congr {s s' : State} (h : s'.pstate = s.pstate) (t : State) : advanceIT s' t = advanceIT s t := by
  unfold advanceIT; rw [h]

/-- Outside an IT block IT does not advance. -/
theorem advanceIT_of_it_zero {s : State} (h : s.pstate.it = 0) (t : State) : advanceIT s t = t :=
  if_neg fun ⟨_, hne, _⟩ => hne h

/-- Settles O56: the step is the fetch and decode, which refuses under the decoder's name. -/
theorem stepRefusesUndecodable : Obligations.StepRefusesUndecodable := by
  intro s a e hquiet hil huinj hfetch hdecode
  simp only [step, step_of_fetch hquiet hil huinj, State.fetchDecode, hfetch, hdecode]

/-- Settles O55: the step is the fetch and decode, and recording the fetch leaves the T and IT that the advance reads. -/
theorem stepRunsDecodedInstruction : Obligations.StepRunsDecodedInstruction := by
  intro s a i rest hquiet hil huinj hfetch hdecode
  have hstep : step s = endOutcome s.recordFetch (exec i s.recordFetch) := by
    simp only [step, step_of_fetch hquiet hil huinj, State.fetchDecode, hfetch, hdecode]
  obtain ⟨-, hpstate, -⟩ := s.recordFetch_keeps
  refine ⟨hstep, fun t ht => ?next, fun r hr => by rw [hstep, hr]; rfl, fun r hr => by rw [hstep, hr]; rfl, fun hnil => ?record⟩
  case next =>
    have hnext : step s = .next (advanceIT s t).nextInputs := by
      rw [hstep, ht, endOutcome, advanceIT_congr hpstate]
    exact ⟨fun hit => by rw [hnext, advanceIT_of_it_zero hit], hnext⟩
  case record => rw [State.recordFetch, hnil]

end Sys2Proof.Machine
end

section
/-! SUPPORT. MRS: the CPSR image bit by bit, and the value MRS reads above PL0 and at PL0 (10_state.md R38, R39;
40_cpsr_access.md R120, 92 D15). -/

namespace Sys2Proof.Machine

open Sys2Proof.Safety

/-- The CPSR image shows every field of PSTATE at its bit. -/
theorem cpsrRead_shows (c : Config) (p : PState) : showsCpsr c p (cpsrRead c p) := by
  refine ⟨?n, ?z, ?c, ?v, ?q, ?raz24, ?ssbs, ?pan, ?dit, ?raz20, ?ge, ?raz10, ?e, ?a, ?i, ?f, ?raz5, ?m4, ?m⟩
  case raz24 | ge | raz10 | m =>
    simp (disch := decide) only [cpsrRead, field_or, field_place, field_place_of_disjoint, field_placeBit_of_disjoint]
    simp
  all_goals
    simp (disch := decide) only [cpsrRead, bit_or, bit_placeBit_same, bit_placeBit_other, bit_place_of_disjoint]
    simp

/-- Fields that are equal show equal bits. -/
theorem bit_of_field_eq {n k w : Nat} {u v : BitVec n} (h : (field u k w : BitVec w) = field v k w) {j : Nat} (hk : k ≤ j)
    (hw : j < k + w) : bit u j = bit v j := by
  have hj := congrArg (bit · (j - k)) h
  simpa [bit_field, show j - k < w by omega, Nat.add_sub_cancel' hk] using hj

/-- Above PL0 MRS reads the CPSR image. -/
theorem State.mrsValue_of_privileged {s : State} (h : s.pl0 = false) : s.mrsValue = cpsrRead s.cfg s.pstate :=
  if_neg (Bool.eq_false_iff.1 h)

/-- The APSR mask has the APSR's bits. -/
theorem bit_apsrBits : ∀ k < 32, bit apsrBits k = apsrBit k := by decide

/-- At PL0 MRS reads the APSR's bits of the CPSR image and free bits. -/
theorem State.bit_mrsValue_of_user {s : State} (h : s.pl0 = true) {k : Nat} (hk : k < 32) :
    bit s.mrsValue k = if apsrBit k then bit (cpsrRead s.cfg s.pstate) k else bit s.freeWord k := by
  have hnot : bit (~~~apsrBits) k = !apsrBit k := by
    rw [← bit_apsrBits k hk]
    simp only [bit, BitVec.getLsbD_not, hk, decide_true, Bool.true_and]
  rw [State.mrsValue, if_pos h, bit_or, bit_and, bit_and, hnot, bit_apsrBits k hk]
  cases apsrBit k <;> simp

/-- An MRS completes, and reads where it passes. -/
theorem exec_mrs_reads {i : Instr} {s : State} {passed : Bool} {rd : Reg} {P : Word → Prop}
    (hi : exec i s = .next ((if passed then s.readCpsrInto rd else s).advance 4)) (hP : P s.mrsValue) :
    ∃ t, exec i s = .next t ∧ t.pc = s.pc + 4 ∧ if passed then P (t.readReg rd) else t = s.advance 4 := by
  refine ⟨_, hi, ?_⟩
  cases passed with
  | false => exact ⟨rfl, rfl⟩
  | true =>
    refine ⟨congrArg (· + 4) (s.readCpsrInto_pc rd), ?_⟩
    rw [if_pos rfl]
    exact (s.readCpsrInto_readReg rd).symm ▸ hP

/-- Settles O17: above PL0 the value read is the CPSR image. -/
theorem mrsReadsCpsr : Obligations.MrsReadsCpsr := by
  intro s cond rd hpriv
  have hshows : showsCpsr s.cfg s.pstate s.mrsValue := by
    rw [State.mrsValue_of_privileged hpriv]
    exact cpsrRead_shows s.cfg s.pstate
  exact ⟨exec_mrs_reads rfl hshows, exec_mrs_reads rfl hshows⟩

/-- Settles O18: at PL0 the APSR's bits are those of the CPSR image, the others free. -/
theorem mrsAtUserReadsApsr : Obligations.MrsAtUserReadsApsr := by
  intro s cond rd hpl shows
  have hvalue : shows s.mrsValue := by
    have hbit {k : Nat} (hk : k < 32) := State.bit_mrsValue_of_user hpl hk
    obtain ⟨hn, hz, hc, hv, hq, -, -, -, -, -, hge, -⟩ := cpsrRead_shows s.cfg s.pstate
    refine ⟨(hbit (by decide)).trans hn, (hbit (by decide)).trans hz, (hbit (by decide)).trans hc,
      (hbit (by decide)).trans hv, (hbit (by decide)).trans hq, ?ge, fun k hk hfree => ?free⟩
    case ge =>
      refine (eq_of_bit fun j hj => ?_).trans hge
      have hapsr : apsrBit (16 + j) = true := by simp [apsrBit]; omega
      rw [bit_field, bit_field, hbit (by omega), if_pos hapsr]
    case free => rw [hbit hk, if_neg (Bool.eq_false_iff.1 hfree)]
  exact ⟨exec_mrs_reads rfl hvalue, exec_mrs_reads rfl hvalue⟩

/-- Settles O19: MRS reads the CPSR into Rd or does nothing, and moves the pc. -/
theorem mrsFrame : Obligations.MrsFrame := by
  intro s t cond rd h
  obtain ⟨passed, rfl⟩ : ∃ passed : Bool, t = (if passed then s.readCpsrInto rd else s).advance 4 := by
    rcases h with h | h
    · exact ⟨conditionPassed cond s.pstate, (Host.Outcome.next.inj h).symm⟩
    · exact ⟨itPassed s.pstate, (Host.Outcome.next.inj h).symm⟩
  cases passed with
  | false => exact ⟨rfl, fun _ _ => rfl, ⟨rfl, rfl, fun _ => rfl, rfl, rfl, rfl⟩, rfl, rfl⟩
  | true =>
    obtain ⟨⟨hcfg, hspsr, hmem, henv, hpending, hlast, -⟩, hpstate, hinp, hstale⟩ := s.readCpsrInto_keeps rd
    exact ⟨hpstate, fun r hr => s.readCpsrInto_readReg_other rd r hr,
      ⟨hcfg, hspsr, fun a => congrArg (Memory.read · a) hmem, henv, hpending, hlast⟩, hinp, hstale⟩

end Sys2Proof.Machine
end

section
/-! SUPPORT. MSR: the CPSR write field by field, the constant of MSR (immediate), and which values of M it refuses
(40_cpsr_access.md R123, R127). -/

namespace Sys2Proof.Machine

open Sys2Proof.Safety

/-- The write of M that a CPSR write makes: above PL0, with the c lane. -/
theorem State.cpsrWrite_mode (s : State) (v : Word) (mask : BitVec 4) :
    if bit mask 0 = true ∧ s.pl0 = false then modeWritten s (s.cpsrWrite v mask) (field v 0 5)
    else modeKept s (s.cpsrWrite v mask) := by
  have hlane : (laneC mask && !s.pl0) = true ↔ bit mask 0 = true ∧ s.pl0 = false := by simp [laneC]
  split
  next h =>
    rw [State.cpsrWrite_eq, if_pos (hlane.2 h)]
    exact State.writeMode_modeWritten { s with pstate := cpsrWriteFields s.cfg (!s.pl0) v mask s.pstate } (field v 0 5)
  next h =>
    rw [State.cpsrWrite_eq, if_neg (mt hlane.1 h)]
    exact ⟨rfl, rfl⟩

/-- A CPSR write writes the lanes and no field beside them but M and IL. -/
theorem State.cpsrWrite_pstate_frame (s : State) (v : Word) (mask : BitVec 4) :
    ∃ m il, (s.cpsrWrite v mask).pstate = { cpsrWriteFields s.cfg (!s.pl0) v mask s.pstate with m := m, il := il } := by
  rw [State.cpsrWrite_eq]
  split
  · exact ⟨_, _, State.writeMode_pstate_frame _ _⟩
  · exact ⟨_, _, rfl⟩

/-- The CPSR write leaves every field of PSTATE as 40_cpsr_access.md R123 says. -/
theorem State.cpsrWrite_cpsrWritten (s : State) (v : Word) (mask : BitVec 4) :
    cpsrWritten s (s.cpsrWrite v mask) v mask := by
  have hmode := s.cpsrWrite_mode v mask
  obtain ⟨m, il, hp⟩ := s.cpsrWrite_pstate_frame v mask
  refine ⟨?n, ?z, ?c, ?v, ?q, ?ssbs, ?pan, ?dit, ?ge, ?e, ?a, ?i, ?f, ?hidden, hmode⟩
  case hidden => rw [sameHidden, hp]; exact ⟨rfl, rfl, rfl, rfl⟩
  case n | z | c | v | q | ge => rw [hp]; rfl
  all_goals simp [hp, cpsrWriteFields, laneS, laneX, laneC, and_assoc]

/-- Whether a write of `v` under a mask is one of an illegal change of M: it includes the c lane above PL0 (44 R194). -/
def illegalWrite (s : State) (v : Word) (mask : BitVec 4) : Bool :=
  bit mask 0 && !s.pl0 && illegalModeChange s.cfg s.inp s.pstate.m (field v 0 5)

/-- IL after a CPSR write. -/
theorem State.cpsrWrite_il (s : State) (v : Word) (mask : BitVec 4) :
    (s.cpsrWrite v mask).pstate.il = (s.pstate.il || illegalWrite s v mask) := by
  have hmode := s.cpsrWrite_mode v mask
  simp only [modeWritten, modeKept, illegalWrite] at hmode ⊢
  split at hmode
  next h =>
    obtain ⟨hc, hpl⟩ := h
    split at hmode <;> simp [*]
  next h =>
    rw [hmode.2]
    cases hc : bit mask 0 <;> cases hpl : s.pl0 <;> simp_all

/-- An MSR completes, and writes the CPSR where it passes. -/
theorem exec_msr_writes {i : Instr} {s : State} {passed : Bool} {v : Word} {mask : BitVec 4}
    (hi : exec i s = .next ((if passed then s.cpsrWrite v mask else s).advance 4)) :
    ∃ t, exec i s = .next t ∧ t.pc = s.pc + 4 ∧ if passed then cpsrWritten s t v mask else t = s.advance 4 := by
  refine ⟨_, hi, ?_⟩
  cases passed with
  | false => exact ⟨rfl, rfl⟩
  | true => exact ⟨congrArg (· + 4) (s.cpsrWrite_pc v mask), s.cpsrWrite_cpsrWritten v mask⟩

/-- Settles O22: both forms run the CPSR write of Rn. -/
theorem msrRegisterWritesLanes : Obligations.MsrRegisterWritesLanes :=
  fun _ _ _ _ => ⟨exec_msr_writes rfl, exec_msr_writes rfl⟩

/-- The constant of MSR (immediate) is the low 8 bits of imm12 rotated right by twice its upper 4 (30_encoding.md R111). -/
theorem expandImm12_eq (imm12 : BitVec 12) :
    expandImm12 imm12 = ((imm12.setWidth 8).setWidth 32).rotateRight (2 * (imm12.toNat / 256)) := by
  have hlow : place 32 (field imm12 0 8) 0 = (imm12.setWidth 8).setWidth 32 := by
    rw [place, field, BitVec.shiftLeft_zero, ← BitVec.setWidth_eq_extractLsb' (x := imm12) (by decide)]
  have hhigh : (field imm12 8 4).toNat = imm12.toNat / 256 := by
    have := imm12.isLt
    simp [field, Nat.shiftRight_eq_div_pow]
    omega
  rw [expandImm12, hlow, hhigh]

/-- Settles O23: the constant is that of `expandImm12`. -/
theorem msrImmediateWritesLanes : Obligations.MsrImmediateWritesLanes := by
  intro s cond mask imm12
  rw [← expandImm12_eq]
  exact exec_msr_writes rfl

/-! The hidden fields -/

/-- The CPSR bits that are no field's read 0. -/
theorem cpsrRead_raz (c : Config) (p : PState) :
    ∀ k ∈ [26, 25, 24, 20, 15, 14, 13, 12, 11, 10, 5], bit (cpsrRead c p) k = false := by
  simp (disch := decide) only [List.forall_mem_cons, List.not_mem_nil, cpsrRead, bit_or, bit_placeBit_other,
    bit_place_of_disjoint]
  simp

/-- An MSR completes, writes none of the hidden fields, and sets IL where it passes and writes an illegal M. -/
theorem exec_msr_hidden {i : Instr} {s : State} {passed : Bool} {v : Word} {mask : BitVec 4}
    (hi : exec i s = .next ((if passed then s.cpsrWrite v mask else s).advance 4)) :
    ∃ t, exec i s = .next t ∧ sameHidden s t ∧ t.pstate.il = (s.pstate.il || (passed && illegalWrite s v mask)) := by
  refine ⟨_, hi, ?_⟩
  cases passed with
  | false => exact ⟨⟨rfl, rfl, rfl, rfl⟩, (Bool.or_false _).symm⟩
  | true =>
    obtain ⟨-, -, -, -, -, -, -, -, -, -, -, -, -, hhidden, -⟩ := s.cpsrWrite_cpsrWritten v mask
    exact ⟨hhidden, s.cpsrWrite_il v mask⟩

/-- Settles O20: the CPSR image reads none of the hidden fields, and the CPSR write writes none but IL. -/
theorem hiddenFieldsHaveNoCpsrAccess : Obligations.HiddenFieldsHaveNoCpsrAccess := by
  refine ⟨?mrs, fun s cond mask rn imm12 => ⟨exec_msr_hidden rfl, exec_msr_hidden rfl, exec_msr_hidden rfl⟩⟩
  intro s il j t uinj it cond rd s' raz
  have hsame : (s.readCpsrInto rd).readReg rd = (s'.readCpsrInto rd).readReg rd := by
    rw [s.readCpsrInto_readReg, s'.readCpsrInto_readReg]
    rfl
  have hraz (hpriv : s.pl0 = false) : raz ((s.readCpsrInto rd).readReg rd) := by
    rw [s.readCpsrInto_readReg, State.mrsValue_of_privileged hpriv]
    exact cpsrRead_raz s.cfg s.pstate
  refine ⟨⟨_, _, rfl, rfl, ?a32, ?a32raz⟩, fun hpass hpass' => ⟨_, _, rfl, rfl, ?t32, ?t32raz⟩⟩
  case a32 =>
    have hcond : conditionPassed cond s'.pstate = conditionPassed cond s.pstate := rfl
    rw [hcond]
    cases conditionPassed cond s.pstate with
    | false => rfl
    | true => exact hsame
  case a32raz =>
    intro hpass hpriv
    rw [if_pos hpass]
    exact hraz hpriv
  case t32 =>
    rw [if_pos hpass, if_pos hpass']
    exact hsame
  case t32raz =>
    intro hpriv
    rw [if_pos hpass]
    exact hraz hpriv

/-! Bit 4 of M -/

/-- Above PL0, in a coherent configuration, a value without M[4] is an illegal one for M: the mode table has none. -/
theorem illegal_of_bit4 {c : Config} (hok : configOk c) (inp : Inputs) {cur new : BitVec 5} (hcur : bit cur 4 = true)
    (hnew : bit new 4 = false) : illegalModeChange c inp cur new = true := by
  have hne : new ≠ cur := fun he => by rw [he, hcur] at hnew; cases hnew
  refine (illegalModeChange_iff hne).2 ⟨.notInTable, ?_⟩
  cases hm : modeOf c new with
  | none => simp [clauseApplies, hm]
  | some md => rw [bit4_of_modeOf hok hm] at hnew; cases hnew

/-- A CPSR write with the c lane and bit 4 of the value 0 leaves M, and above PL0 sets IL. -/
theorem State.cpsrWrite_of_bit4 {s : State} (hok : configOk s.cfg) (hcur : bit s.pstate.m 4 = true) {v : Word}
    {mask : BitVec 4} (hc : bit mask 0 = true) (hv : bit v 4 = false) :
    (s.cpsrWrite v mask).pstate.m = s.pstate.m
      ∧ (s.cpsrWrite v mask).pstate.il = (if s.pl0 then s.pstate.il else true) := by
  have hnew : bit (field v 0 5 : BitVec 5) 4 = false := by simpa [bit_field] using hv
  have hmode := s.cpsrWrite_mode v mask
  cases hpl : s.pl0 with
  | true =>
    rw [if_neg (by simp [hpl])] at hmode
    exact hmode
  | false =>
    rw [if_pos ⟨hc, hpl⟩, modeWritten, if_pos (illegal_of_bit4 hok s.inp hcur hnew)] at hmode
    exact hmode

/-- Settles O21: the CPSR image has bit 4 = 1, and the CPSR write of a value without it is an illegal change of M. -/
theorem executionStateBit : Obligations.ExecutionStateBit := by
  intro s cond mask r imm12 hok hcur
  have hreads (hpriv : s.pl0 = false) : bit (s.mrsValue) 4 = true := by
    rw [State.mrsValue_of_privileged hpriv]
    obtain ⟨-, -, -, -, -, -, -, -, -, -, -, -, -, -, -, -, -, hm4, -⟩ := cpsrRead_shows s.cfg s.pstate
    exact hm4
  have hMrs {i : Instr} {passed : Bool} (hpass : passed = true)
      (hi : exec i s = .next ((if passed then s.readCpsrInto r else s).advance 4)) (hpriv : s.pl0 = false) :
      ∃ t, exec i s = .next t ∧ bit (t.readReg r) 4 = true := by
    obtain ⟨t, ht, -, h⟩ := exec_mrs_reads hi (P := fun v => bit v 4 = true) (hreads hpriv)
    exact ⟨t, ht, by rwa [if_pos hpass] at h⟩
  have hMsr {i : Instr} {passed : Bool} {v : Word} (hpass : passed = true)
      (hi : exec i s = .next ((if passed then s.cpsrWrite v mask else s).advance 4)) (hc : bit mask 0 = true)
      (hv : bit v 4 = false) :
      ∃ t, exec i s = .next t ∧ t.pstate.m = s.pstate.m ∧ t.pstate.il = (if s.pl0 then s.pstate.il else true) := by
    rw [if_pos hpass] at hi
    exact ⟨_, hi, State.cpsrWrite_of_bit4 hok hcur hc hv⟩
  exact ⟨fun hpass => ⟨hMrs hpass rfl, hMsr hpass rfl, hMsr hpass rfl⟩, fun hpass => ⟨hMrs hpass rfl, hMsr hpass rfl⟩⟩

end Sys2Proof.Machine
end

section
/-! SUPPORT. MSR and the reserved bits: a CPSR write depends on no reserved bit of its value, and the CPSR image shows the others
as they were written (40_cpsr_access.md section 2, 70_reset_and_hazards.md section 3). -/

namespace Sys2Proof.Machine

open Sys2Proof.Safety

/-- A write of M reads no general register. -/
theorem State.writeMode_writeReg (s : State) (r : Reg) (x : Word) (m : BitVec 5) :
    (s.writeReg r x).writeMode m = (s.writeMode m).writeReg r x := by
  rcases s.writeMode_cases m with ⟨hill, he⟩ | ⟨hlegal, he⟩
  · rw [he]; exact if_pos hill
  · rw [he]; exact if_neg (Bool.eq_false_iff.1 hlegal)

/-- A CPSR write reads no general register. -/
theorem State.cpsrWrite_writeReg (s : State) (r : Reg) (x v : Word) (mask : BitVec 4) :
    (s.writeReg r x).cpsrWrite v mask = (s.cpsrWrite v mask).writeReg r x := by
  let written : State := { s with pstate := cpsrWriteFields s.cfg (!s.pl0) v mask s.pstate }
  by_cases h : (laneC mask && !s.pl0) = true
  · rw [s.cpsrWrite_eq, if_pos h]
    exact (if_pos h).trans (written.writeMode_writeReg r x (field v 0 5))
  · rw [s.cpsrWrite_eq, if_neg h]
    exact if_neg h

/-- A bit of a field whose lane and feature gate the write reads no reserved bit. -/
theorem cpsrWriteFields_congr_of_reserved {c : Config} {v w : Word}
    (h : ∀ k < 32, reservedBit c k = false → bit v k = bit w k) (privileged : Bool) (mask : BitVec 4) (p : PState) :
    cpsrWriteFields c privileged v mask p = cpsrWriteFields c privileged w mask p := by
  have hge : (field v 16 4 : BitVec 4) = field w 16 4 := eq_of_bit fun j hj => by
    rw [bit_field, bit_field, h (16 + j) (by omega) (by simp [reservedBit]; omega)]
  have hssbs : (if laneS mask && c.haveSSBS then bit v 23 else p.ssbs)
      = if laneS mask && c.haveSSBS then bit w 23 else p.ssbs :=
    ite_congr rfl (fun hc => h 23 (by decide) (by simp [reservedBit, (Bool.and_eq_true_iff.1 hc).2])) fun _ => rfl
  have hdit : (if laneS mask && c.haveDIT then bit v 21 else p.dit)
      = if laneS mask && c.haveDIT then bit w 21 else p.dit :=
    ite_congr rfl (fun hc => h 21 (by decide) (by simp [reservedBit, (Bool.and_eq_true_iff.1 hc).2])) fun _ => rfl
  have hpan : (if laneS mask && c.havePAN && privileged then bit v 22 else p.pan)
      = if laneS mask && c.havePAN && privileged then bit w 22 else p.pan :=
    ite_congr rfl (fun hc => h 22 (by decide) (by
      obtain ⟨hc, -⟩ := Bool.and_eq_true_iff.1 hc
      simp [reservedBit, (Bool.and_eq_true_iff.1 hc).2])) fun _ => rfl
  simp only [cpsrWriteFields, hge, hssbs, hpan, hdit, h 31 (by decide) rfl, h 30 (by decide) rfl, h 29 (by decide) rfl,
    h 28 (by decide) rfl, h 27 (by decide) rfl, h 9 (by decide) rfl, h 8 (by decide) rfl, h 7 (by decide) rfl,
    h 6 (by decide) rfl]

/-- A CPSR write depends on no reserved bit of its value. -/
theorem State.cpsrWrite_congr_of_reserved {s : State} {v w : Word}
    (h : ∀ k < 32, reservedBit s.cfg k = false → bit v k = bit w k) (mask : BitVec 4) :
    s.cpsrWrite v mask = s.cpsrWrite w mask := by
  have hm : (field v 0 5 : BitVec 5) = field w 0 5 := eq_of_bit fun j hj => by
    rw [bit_field, bit_field, h (0 + j) (by omega) (by simp [reservedBit]; omega)]
  rw [s.cpsrWrite_eq, s.cpsrWrite_eq, cpsrWriteFields_congr_of_reserved h, hm]

/-- Settles O25: the two states differ in Rn alone. -/
theorem msrIgnoresReservedBits : Obligations.MsrIgnoresReservedBits := by
  intro s cond mask rn v w hagree
  have hcongr := State.cpsrWrite_congr_of_reserved hagree mask
  have hMsr {i : Instr} {passed : Bool}
      (hi : ∀ x : Word, exec i (s.writeReg rn x)
        = .next ((if passed then (s.writeReg rn x).cpsrWrite ((s.writeReg rn x).readReg rn) mask else s.writeReg rn x).advance 4)) :
      ∃ t u, exec i (s.writeReg rn v) = .next t ∧ exec i (s.writeReg rn w) = .next u
        ∧ t.pstate = u.pstate ∧ t.inp = u.inp ∧ t.stale = u.stale ∧ t.pc = u.pc := by
    refine ⟨_, _, hi v, hi w, ?_⟩
    cases passed with
    | false => exact ⟨rfl, rfl, rfl, rfl⟩
    | true =>
      simp only [State.readReg_writeReg_same, State.cpsrWrite_writeReg, hcongr]
      exact ⟨rfl, rfl, rfl, rfl⟩
  exact ⟨hMsr (passed := conditionPassed cond s.pstate) fun _ => rfl, hMsr (passed := itPassed s.pstate) fun _ => rfl⟩

/-- The CPSR bits that are not reserved: M, GE and the single bits. -/
theorem bit_cases_of_not_reserved {c : Config} {k : Nat} (hk : k < 32) (h : reservedBit c k = false) :
    (k < 4 ∨ k = 4 ∨ (6 ≤ k ∧ k ≤ 9) ∨ (16 ≤ k ∧ k < 20) ∨ (27 ≤ k ∧ k ≤ 31))
      ∨ (k = 21 ∧ c.haveDIT = true) ∨ (k = 22 ∧ c.havePAN = true) ∨ (k = 23 ∧ c.haveSSBS = true) := by
  by_cases h21 : k = 21
  · subst h21
    simpa [reservedBit] using h
  by_cases h22 : k = 22
  · subst h22
    simpa [reservedBit] using h
  by_cases h23 : k = 23
  · subst h23
    simpa [reservedBit] using h
  have hnot : (((24 ≤ k → 26 < k) ∧ ¬ k = 20) ∧ (10 ≤ k → 15 < k)) ∧ ¬ k = 5 := by
    simpa [reservedBit, h21, h22, h23] using h
  exact .inl (by omega)

/-- After a CPSR write of all lanes above PL0 with a legal value for M the CPSR image shows the value in every bit that is not
reserved, bit 9 where both byte orders exist. -/
theorem cpsrRead_cpsrWrite {s : State} (hok : configOk s.cfg) (hpriv : s.pl0 = false) (hcur : bit s.pstate.m 4 = true) {v : Word}
    (hlegal : illegalModeChange s.cfg s.inp s.pstate.m (field v 0 5) = false) {k : Nat} (hk : k < 32)
    (hres : reservedBit s.cfg k = false) (hE : k = 9 → s.cfg.bothEndian = true) :
    bit (cpsrRead s.cfg (s.cpsrWrite v 0b1111).pstate) k = bit v k := by
  have hv4 : bit v 4 = true := by
    by_contra hv
    have hnew : bit (field v 0 5 : BitVec 5) 4 = false := by simpa [bit_field] using hv
    rw [illegal_of_bit4 hok s.inp hcur hnew] at hlegal
    cases hlegal
  obtain ⟨wn, wz, wc, wv, wq, wssbs, wpan, wdit, wge, we, wa, wi, wf, -, wmode⟩ := s.cpsrWrite_cpsrWritten v 0b1111
  rw [if_pos ⟨rfl, hpriv⟩, modeWritten, if_neg (Bool.eq_false_iff.1 hlegal)] at wmode
  obtain ⟨wm, -⟩ := wmode
  generalize (s.cpsrWrite v 0b1111).pstate = p at *
  obtain ⟨rn, rz, rc, rv, rq, -, rssbs, rpan, rdit, -, rge, -, re, ra, ri, rf, -, rm4, rm⟩ := cpsrRead_shows s.cfg p
  rcases bit_cases_of_not_reserved hk hres with
    (hM | rfl | ⟨hlow, hhigh⟩ | ⟨hlow, hhigh⟩ | ⟨hlow, hhigh⟩) | ⟨rfl, hdit⟩ | ⟨rfl, hpan⟩ | ⟨rfl, hssbs⟩
  · have hm : (field p.m 0 4 : BitVec 4) = field v 0 4 := by
      rw [wm]
      exact eq_of_bit fun j hj => by simp [bit_field, hj, show j < 5 by omega]
    exact bit_of_field_eq (rm.trans hm) (Nat.zero_le k) (by omega)
  · exact rm4.trans hv4.symm
  · interval_cases k
    · exact rf.trans (wf.trans (if_pos ⟨rfl, hpriv⟩))
    · exact ri.trans (wi.trans (if_pos ⟨rfl, hpriv⟩))
    · exact ra.trans (wa.trans (if_pos ⟨rfl, hpriv⟩))
    · exact re.trans (we.trans (if_pos ⟨rfl, hE rfl⟩))
  · exact bit_of_field_eq (rge.trans wge) hlow hhigh
  · interval_cases k
    · exact rq.trans wq
    · exact rv.trans wv
    · exact rc.trans wc
    · exact rz.trans wz
    · exact rn.trans wn
  · rw [rdit, wdit, if_pos ⟨rfl, hdit⟩, hdit, Bool.true_and]
  · rw [rpan, wpan, if_pos ⟨rfl, hpan, hpriv⟩, hpan, Bool.true_and]
  · rw [rssbs, wssbs, if_pos ⟨rfl, hssbs⟩, hssbs, Bool.true_and]

/-- Settles O26: the MRS reads the CPSR image of what the MSR wrote. -/
theorem msrThenMrsReadsBack : Obligations.MsrThenMrsReadsBack := by
  intro s t u rn rd hok hpriv hlegal hcur hMsr hpriv' hMrs k hk hres hE
  have ht : t = (s.cpsrWrite (s.readReg rn) 0b1111).advance 4 := (Host.Outcome.next.inj hMsr).symm
  have hu : u = (t.readCpsrInto rd).advance 4 := (Host.Outcome.next.inj hMrs).symm
  have hread : u.readReg rd = cpsrRead t.cfg t.pstate := by
    rw [hu, ← State.mrsValue_of_privileged hpriv', ← t.readCpsrInto_readReg rd]
    rfl
  rw [hread, ht, State.advance_cfg, State.advance_pstate, State.cpsrWrite_cfg]
  exact cpsrRead_cpsrWrite hok hpriv hcur hlegal hk hres hE

end Sys2Proof.Machine
end

section
/-! SUPPORT. SETEND and SETPAN where they are restricted, and what no instruction does: write a hidden field, or the mode, the
masks and PAN at PL0. Every form runs `setend` or `setpan`, a T32 form outside an IT block. -/

namespace Sys2Proof.Machine

open Sys2Proof.Safety

/-! Every form -/

/-- Every SETEND, a T32 form outside an IT block, runs `setend`. -/
theorem exec_eq_setend {i : Instr} {s : State} (hi : isSetend i = true) (hit : isT32Unconditional i = true → s.pstate.it = 0) :
    ∃ e, exec i s = setend e (size i) s := by
  cases i with
  | setendBeA1 => exact ⟨true, rfl⟩
  | setendLeA1 => exact ⟨false, rfl⟩
  | setendBeT1 => exact ⟨true, outsideItBlock_of_it_zero (hit rfl) _⟩
  | setendLeT1 => exact ⟨false, outsideItBlock_of_it_zero (hit rfl) _⟩
  | _ => cases hi

/-- Every SETPAN, a T32 form outside an IT block, runs `setpan`. -/
theorem exec_eq_setpan {i : Instr} {s : State} (hi : isSetpan i = true) (hit : isT32Unconditional i = true → s.pstate.it = 0) :
    ∃ b, exec i s = setpan b (size i) s := by
  cases i with
  | setpan0A1 => exact ⟨false, rfl⟩
  | setpan1A1 => exact ⟨true, rfl⟩
  | setpan0T1 => exact ⟨false, outsideItBlock_of_it_zero (hit rfl) _⟩
  | setpan1T1 => exact ⟨true, outsideItBlock_of_it_zero (hit rfl) _⟩
  | _ => cases hi

/-! SETEND with one byte order -/

/-- With one byte order SETEND writes no E. -/
theorem State.setE_of_oneOrder {s : State} (h : s.cfg.bothEndian = false) (e : Bool) : s.setE e = s := by
  have hE : (if s.cfg.bothEndian then e else s.pstate.e) = s.pstate.e := if_neg (Bool.eq_false_iff.1 h)
  rw [State.setE, hE]

section
variable {s : State} (henabled : s.cfg.setendDisabled = false) (hone : s.cfg.bothEndian = false)
include henabled hone

/-- A SETEND naming the one byte order only moves the pc. -/
theorem setend_of_oneOrder_same {e : Bool} (he : e = s.cfg.onlyEndianness) (n : Nat) : setend e n s = .next (s.advance n) := by
  rw [setend, if_neg (Bool.eq_false_iff.1 henabled), if_neg fun h => h.2 he, State.setE_of_oneOrder hone]

/-- A SETEND naming the other byte order is refused. -/
theorem setend_of_oneOrder_other {e : Bool} (he : e ≠ s.cfg.onlyEndianness) (n : Nat) :
    setend e n s = .refused .absentByteOrder := by
  rw [setend, if_neg (Bool.eq_false_iff.1 henabled), if_pos ⟨hone, he⟩]

end

/-- Settles O46: the first two checks of `setend`, in its order. -/
theorem setendRestricted : Obligations.SetendRestricted := by
  intro s
  refine ⟨fun hdisabled i hi hit => ?disabled, fun henabled hone => ?oneOrder⟩
  case disabled =>
    obtain ⟨e, he⟩ := exec_eq_setend hi hit
    rw [he, setend, if_pos hdisabled]
  case oneOrder =>
    have hT32 {run} (hit : s.pstate.it = 0) := outsideItBlock_of_it_zero hit run
    cases ho : s.cfg.onlyEndianness with
    | true =>
      have hBe := setend_of_oneOrder_same henabled hone ho.symm
      have hLe := setend_of_oneOrder_other henabled hone (e := false) (by simp [ho])
      rw [if_pos rfl]
      exact ⟨hBe 4, hLe 4, fun hit => ⟨(hT32 hit).trans (hBe 2), (hT32 hit).trans (hLe 2)⟩⟩
    | false =>
      have hLe := setend_of_oneOrder_same henabled hone ho.symm
      have hBe := setend_of_oneOrder_other henabled hone (e := true) (by simp [ho])
      rw [if_neg (by decide)]
      exact ⟨hLe 4, hBe 4, fun hit => ⟨(hT32 hit).trans (hLe 2), (hT32 hit).trans (hBe 2)⟩⟩

/-! SETPAN at PL0 and without FEAT_PAN -/

/-- At PL0 SETPAN writes no PAN. -/
theorem State.setPan_of_user {s : State} (h : s.pl0 = true) (b : Bool) : s.setPan b = s := if_pos h

/-- Settles O48: at PL0 `setpan` writes nothing, and without FEAT_PAN it takes the exception. -/
theorem setpanRestricted : Obligations.SetpanRestricted := by
  intro i s hi hit
  obtain ⟨b, hb⟩ := exec_eq_setpan hi hit
  refine ⟨fun hhave hpl => ?_, fun hno => ?_⟩
  · rw [hb, setpan_of_havePAN hhave, State.setPan_of_user hpl]
  · rw [hb, setpan, if_neg (Bool.eq_false_iff.1 hno)]

/-- No instruction is both a SETEND and a SETPAN. -/
theorem not_isSetpan_of_isSetend {i : Instr} (hend : isSetend i = true) : ¬ isSetpan i = true := by
  intro hpan
  cases i <;> cases hend <;> cases hpan

/-- Settles O49: without the exception `setend` writes E and `setpan` PAN, beside the pc. -/
theorem setendAndSetpanFrame : Obligations.SetendAndSetpanFrame := by
  rintro i s t (hi | hi) h
  · obtain ⟨e, he⟩ := exec_eq_setend hi (it_zero_of_exec_next h)
    rcases setend_next (he.symm.trans h) with ⟨-, rfl⟩ | ⟨-, rfl⟩
    · exact .inl rfl
    · exact .inr ⟨fun _ => rfl, ⟨rfl, rfl, fun _ => rfl, rfl, rfl, rfl⟩, ⟨rfl, rfl⟩, rfl, rfl, fun _ => rfl,
        fun hpan => absurd hpan (not_isSetpan_of_isSetend hi)⟩
  · obtain ⟨b, hb⟩ := exec_eq_setpan hi (it_zero_of_exec_next h)
    rcases setpan_next (hb.symm.trans h) with ⟨-, rfl⟩ | ⟨-, rfl⟩
    · exact .inl rfl
    · obtain ⟨⟨⟨hcfg, hspsr, hmem, henv, hpending, hlast, -⟩, hx, hfree⟩, hinp, hstale⟩ := s.setPan_keeps b
      have hp : ((s.setPan b).advance (size i)).pstate = _ := s.setPan_pstate b
      exact .inr ⟨fun r => congrArg (fun x : Vector Word 15 => x[r]) hx,
        ⟨hcfg, hspsr, fun a => congrArg (Memory.read · a) hmem, henv, hpending, hlast⟩, ⟨hinp, hstale⟩, hfree,
        by rw [hp], fun hend => absurd hi (not_isSetpan_of_isSetend hend), fun _ => by rw [hp]⟩

/-! What no instruction does -/

/-- Settles O14: beside MSR and CPS no operation of an instruction but the exception writes M, the inputs or the window. -/
theorem onlyMsrAndCpsChangeMode : Obligations.OnlyMsrAndCpsChangeMode := by
  intro i s t hMsr hCps h
  rcases exec_cases h with ⟨n, rfl⟩ | ⟨r, -, rfl⟩ | ⟨hi, -⟩ | ⟨hi, -⟩ | ⟨-, e, n, rfl⟩ | ⟨-, -, b, n, rfl⟩
    | ⟨cond, up, rn, rt, imm12, v, -, rfl⟩ | ⟨-, rfl⟩
  · exact .inl ⟨rfl, rfl, rfl⟩
  · exact .inl (by simp)
  · rw [hMsr] at hi; cases hi
  · rw [hCps] at hi; cases hi
  · exact .inl ⟨rfl, rfl, rfl⟩
  · obtain ⟨-, hinp, hstale⟩ := s.setPan_keeps b
    exact .inl ⟨by simp [State.setPan_pstate], hinp, hstale⟩
  · exact .inl ⟨rfl, rfl, rfl⟩
  · exact .inr rfl

/-- CPSOp writes no hidden field. -/
theorem State.cpsMasks_sameHidden (s : State) (b : Bool) (fl : IFlags) (mode : Option (BitVec 5)) :
    sameHidden s (s.cpsMasks b fl mode) := by
  obtain ⟨a, i, f, m, il, hp⟩ := s.cpsMasks_pstate_frame b fl mode
  rw [sameHidden, hp]
  exact ⟨rfl, rfl, rfl, rfl⟩

/-- Settles O15: no operation of an instruction but the exception writes a hidden field. -/
theorem noInstructionWritesHiddenFields : Obligations.NoInstructionWritesHiddenFields := by
  intro i s t h
  rcases exec_cases h with ⟨n, rfl⟩ | ⟨r, -, rfl⟩ | ⟨-, v, k, rfl⟩ | ⟨-, ⟨b, fl, mode, n, rfl⟩ | ⟨m, rfl⟩⟩ | ⟨-, e, n, rfl⟩
    | ⟨-, -, b, n, rfl⟩ | ⟨cond, up, rn, rt, imm12, v, -, rfl⟩ | hexc
  · exact .inl ⟨rfl, rfl, rfl, rfl⟩
  · exact .inl (by simp [sameHidden])
  · obtain ⟨-, -, -, -, -, -, -, -, -, -, -, -, -, hhidden, -⟩ := s.cpsrWrite_cpsrWritten v k
    exact .inl hhidden
  · exact .inl (s.cpsMasks_sameHidden b fl mode)
  · rw [s.cpsMode_eq_cpsMasks false]
    exact .inl (s.cpsMasks_sameHidden _ _ _)
  · exact .inl ⟨rfl, rfl, rfl, rfl⟩
  · exact .inl (by simp [sameHidden, State.setPan_pstate])
  · exact .inl ⟨rfl, rfl, rfl, rfl⟩
  · exact .inr hexc

/-- What User mode may not change: M, IL, the masks, PAN and the SPSRs (92 D15). -/
abbrev userConfined (s t : State) : Prop :=
  modeKept s t ∧ sameMasks s t ∧ t.pstate.pan = s.pstate.pan ∧ t.spsr = s.spsr

/-- At PL0 the CPSR write is confined. -/
theorem State.cpsrWrite_confined {s : State} (h : s.pl0 = true) (v : Word) (mask : BitVec 4) :
    userConfined s (s.cpsrWrite v mask) := by
  obtain ⟨-, -, -, -, -, -, hpan, -, -, -, ha, hi, hf, -⟩ := s.cpsrWrite_cpsrWritten v mask
  simp only [h, Bool.true_eq_false, and_false, if_false] at hpan ha hi hf
  exact ⟨State.cpsrWrite_modeKept_of_user h v mask, ⟨ha, hi, hf⟩, hpan, s.cpsrWrite_spsr v mask⟩

/-- Settles O16: at PL0 CPSOp and SETPAN do nothing, and the CPSR write is confined. -/
theorem userModeIsConfined : Obligations.UserModeIsConfined := by
  intro i s t hpl h
  have hself : userConfined s s := ⟨⟨rfl, rfl⟩, ⟨rfl, rfl, rfl⟩, rfl, rfl⟩
  rcases exec_cases h with ⟨n, rfl⟩ | ⟨r, -, rfl⟩ | ⟨-, v, k, rfl⟩ | ⟨-, ⟨b, fl, mode, n, rfl⟩ | ⟨m, rfl⟩⟩ | ⟨-, e, n, rfl⟩
    | ⟨-, -, b, n, rfl⟩ | ⟨cond, up, rn, rt, imm12, v, -, rfl⟩ | hexc
  · exact .inl hself
  · exact .inl (by simp [modeKept, sameMasks])
  · exact .inl (State.cpsrWrite_confined hpl v k)
  · rw [State.cpsMasks_of_user hpl]
    exact .inl hself
  · rw [s.cpsMode_eq_cpsMasks false, State.cpsMasks_of_user hpl]
    exact .inl hself
  · exact .inl hself
  · rw [State.setPan_of_user hpl]
    exact .inl hself
  · exact .inl hself
  · exact .inr hexc

end Sys2Proof.Machine
end

section
/-! SUPPORT. LDR and memory: the address LDR takes under the alignment policy, the number of the four bytes it loads, and what a
store of any size leaves at the addresses inside and outside it (20_memory.md R81, R90, 92 D19). -/

namespace Sys2Proof.Machine

open Sys2Proof.Safety

/-! LDR -/

/-- The address LDR forms. -/
theorem offsetAddress_eq (s : State) (up : Bool) (rn : Reg) (imm12 : BitVec 12) :
    offsetAddress (s.readReg rn) up imm12 = ldrAddress s up rn imm12 := by
  rw [offsetAddress, ldrAddress, place, BitVec.shiftLeft_zero]

/-- The address an access takes where it is aligned or the alignment policy goes on. -/
theorem alignedAddress_eq_some {p : AlignPolicy} {a b : Word} {n : Nat}
    (h : b.toNat % n = 0 ∧ a = b ∨ p = .bytewise ∧ a = b ∨ p = .roundDown ∧ a.toNat = b.toNat - b.toNat % n) :
    alignedAddress p b n = some a := by
  unfold alignedAddress
  split
  next haligned =>
    rcases h with ⟨-, rfl⟩ | ⟨-, rfl⟩ | ⟨-, ha⟩
    · rfl
    · rfl
    · rw [haligned, Nat.sub_zero] at ha
      rw [BitVec.eq_of_toNat_eq ha]
  next hmisaligned =>
    rcases h with ⟨h, -⟩ | ⟨rfl, rfl⟩ | ⟨rfl, ha⟩
    · exact absurd h hmisaligned
    · rfl
    · rw [← ha, BitVec.ofNat_toNat, BitVec.setWidth_eq]

/-- An access stops exactly at a misaligned address under the policy `stop`. -/
theorem alignedAddress_eq_none_iff {p : AlignPolicy} {b : Word} {n : Nat} :
    alignedAddress p b n = none ↔ b.toNat % n ≠ 0 ∧ p = .stop := by
  unfold alignedAddress
  split
  next h => simp [h]
  next h => cases p <;> simp [h]

/-- The number of the four bytes at an address, the lowest least significant for E = 0 and most significant for E = 1. -/
theorem State.memRead_four (s : State) (a : Word) :
    (s.memRead a 4).toNat =
      if s.pstate.e then
        (s.mem.read (a + 3).toNat).toNat + 256 * (s.mem.read (a + 2).toNat).toNat + 65536 * (s.mem.read (a + 1).toNat).toNat
          + 16777216 * (s.mem.read a.toNat).toNat
      else
        (s.mem.read a.toNat).toNat + 256 * (s.mem.read (a + 1).toNat).toNat + 65536 * (s.mem.read (a + 2).toNat).toNat
          + 16777216 * (s.mem.read (a + 3).toNat).toNat := by
  have h2 : a + 1 + 1 = a + 2 := BitVec.add_assoc a 1 1
  have h3 : a + 2 + 1 = a + 3 := BitVec.add_assoc a 2 1
  have hb (k : Nat) : (s.mem.read k).toNat < 256 := (s.mem.read k).isLt
  have hb0 := hb a.toNat
  have hb1 := hb (a + 1).toNat
  have hb2 := hb (a + 2).toNat
  have hb3 := hb (a + 3).toNat
  rw [State.memRead, BitVec.toNat_ofNat]
  simp only [Memory.readBytes, h2, h3, valueOfBytes]
  cases s.pstate.e
  · simp only [natOfBytes, Bool.false_eq_true, if_false]
    omega
  · simp only [List.reverse_cons, List.reverse_nil, List.nil_append, List.cons_append, natOfBytes, if_true]
    omega

/-- Settles O50: the word read at the address taken is the number of its four bytes, and goes to Rt. -/
theorem ldrLoadsInCurrentByteOrder : Obligations.LdrLoadsInCurrentByteOrder := by
  intro s cond up rn rt imm12 a b haddr hpass b0 b1 b2 b3
  have hload : s.loadWord (offsetAddress (s.readReg rn) up imm12) = some (s.memRead a 4) := by
    rw [offsetAddress_eq, State.loadWord, alignedAddress_eq_some haddr]
    rfl
  refine ⟨(s.writeReg rt (s.memRead a 4)).advance 4, ?runs, rfl, ?value⟩
  case runs =>
    show execLdrA1 cond up rn rt imm12 s = _
    rw [execLdrA1, hload]
    simp only [hpass, if_true]
  case value =>
    have hread : ((s.writeReg rt (s.memRead a 4)).advance 4).readReg rt = s.memRead a 4 := s.readReg_writeReg_same rt _
    rw [hread]
    exact s.memRead_four a

/-- Settles O51: LDR writes Rt or nothing, and moves the pc. -/
theorem ldrFrame : Obligations.LdrFrame := by
  intro s t cond up rn rt imm12 h
  rcases execLdrA1_next h with rfl | ⟨v, -, rfl⟩
  · exact ⟨rfl, fun _ _ => rfl, ⟨rfl, rfl, fun _ => rfl, rfl, rfl, rfl⟩, ⟨rfl, rfl⟩, rfl⟩
  · exact ⟨rfl, fun r hr => s.readReg_writeReg_other rt r v hr, ⟨rfl, rfl, fun _ => rfl, rfl, rfl, rfl⟩, ⟨rfl, rfl⟩, rfl⟩

/-- Settles O52: the load stops exactly at a misaligned address under the policy `stop`, and only a passed LDR faults then. -/
theorem ldrStopsOnlyMisaligned : Obligations.LdrStopsOnlyMisaligned := by
  intro s cond up rn rt imm12
  have hnone : s.loadWord (offsetAddress (s.readReg rn) up imm12) = none
      ↔ (ldrAddress s up rn imm12).toNat % 4 ≠ 0 ∧ s.cfg.alignPolicy = .stop := by
    rw [offsetAddress_eq, State.loadWord, Option.map_eq_none_iff, alignedAddress_eq_none_iff]
  have hexec : exec (.ldrA1 cond up rn rt imm12) s = execLdrA1 cond up rn rt imm12 s := rfl
  simp only [hexec, execLdrA1, ← hnone]
  cases hload : s.loadWord (offsetAddress (s.readReg rn) up imm12) with
  | none => cases hpass : conditionPassed cond s.pstate <;> simp
  | some v => cases hpass : conditionPassed cond s.pstate <;> simp

/-! Stores -/

/-- A list of bytes written leaves every other address as it was. -/
theorem Memory.read_writeBytes_other {m : Memory} (hm : m.wf) (a : Word) {bs : List Byte} {k : Nat}
    (h : ∀ j < bs.length, k ≠ (a + BitVec.ofNat 32 j).toNat) : (m.writeBytes a bs).read k = m.read k := by
  induction bs generalizing m a with
  | nil => rfl
  | cons b bs ih =>
    have hk : k ≠ a.toNat := by simpa using h 0 (by simp)
    have hrest : ∀ j < bs.length, k ≠ (a + 1 + BitVec.ofNat 32 j).toNat := fun j hj => by
      have hstep : a + 1 + BitVec.ofNat 32 j = a + BitVec.ofNat 32 (j + 1) := by
        rw [BitVec.add_assoc, Nat.add_comm j 1, BitVec.ofNat_add]
        rfl
      rw [hstep]
      exact h (j + 1) (by simpa using hj)
    rw [Memory.writeBytes, ih (Memory.write_wf m a.toNat b hm a.isLt) (a + 1) hrest,
      Memory.read_write_other m a.toNat k b hm hk]

/-- Bytes written are read back, in a list no longer than the address space. -/
theorem Memory.readBytes_writeBytes {m : Memory} (hm : m.wf) (a : Word) {bs : List Byte} (hlen : bs.length ≤ 2 ^ 32) :
    (m.writeBytes a bs).readBytes a bs.length = bs := by
  induction bs generalizing m a with
  | nil => rfl
  | cons b bs ih =>
    rw [List.length_cons] at hlen
    have hm' : (m.write a.toNat b).wf := Memory.write_wf m a.toNat b hm a.isLt
    have hfirst : ∀ j < bs.length, a.toNat ≠ (a + 1 + BitVec.ofNat 32 j).toNat := fun j hj heq => by
      have hlt := a.isLt
      have hone : (1 : Word).toNat = 1 := rfl
      simp only [BitVec.toNat_add, BitVec.toNat_ofNat, hone] at heq
      omega
    rw [Memory.writeBytes, List.length_cons, Memory.readBytes, Memory.read_writeBytes_other hm' (a + 1) hfirst,
      Memory.read_write_same m a.toNat b hm, ih hm' (a + 1) (by omega)]

@[simp] theorem length_bytesOfValue (e : Bool) (n v : Nat) : (bytesOfValue e n v).length = n := by
  cases e <;> simp [bytesOfValue]

/-- A value's bytes, in either byte order, spell it. -/
theorem valueOfBytes_bytesOfValue (e : Bool) {n v : Nat} (h : v < 2 ^ (8 * n)) : valueOfBytes e (bytesOfValue e n v) = v := by
  have hpow : 256 ^ n = 2 ^ (8 * n) := by rw [Nat.pow_mul]
  have hdigits : natOfBytes (bytesOfNat n v) = v := by rw [natOfBytes_bytesOfNat, hpow, Nat.mod_eq_of_lt h]
  cases e <;> simpa [valueOfBytes, bytesOfValue] using hdigits

/-- Settles O53: the bytes of the value are read back, and spell it in the same byte order. -/
theorem loadAfterStore : Obligations.LoadAfterStore := by
  intro s a n v hn hm
  refine ⟨?_, Memory.writeBytes_wf s.mem a _ hm⟩
  have hread := Memory.readBytes_writeBytes hm a (bs := bytesOfValue s.pstate.e n v.toNat) (by simpa using hn)
  rw [length_bytesOfValue] at hread
  rw [State.memRead, State.memWrite_pstate, State.memWrite_mem, hread, valueOfBytes_bytesOfValue _ v.isLt,
    BitVec.ofNat_toNat, BitVec.setWidth_eq]

/-- Settles O54: the bytes of the value are n. -/
theorem storeFrame : Obligations.StoreFrame := by
  intro s a n v k hm h
  exact Memory.read_writeBytes_other hm a (by simpa using h)

end Sys2Proof.Machine
end
